-- ==== Sys2Proof/Word.lean ====
section
/-! DEFINITION. The word types of the block: bytes of frames, 16-bit operands and results, 32-bit command words
(spec/00_scope.md R6, spec/30_encoding.md R100). -/

namespace Sys2Proof

/-- One byte of a frame or buffer (R60), or an 8-bit operand (R100). -/
abbrev Byte := BitVec 8

/-- RESULT, operand B and a field value: 16 bits (R28, R100). -/
abbrev Half := BitVec 16

/-- A command word (R100). -/
abbrev Word := BitVec 32

end Sys2Proof
end

