-- ==== Sys2Proof/Machine/Layout.lean ====
section
/-! DEFINITION. The field registers by name, width and id (spec/10_state.md R24), segment lists (spec/00_scope.md R9),
the wire positions the spec states (spec/20_memory.md R70, R71) and the OPEN parameters as data (spec/00_scope.md R5). -/

namespace Sys2Proof

/-- The field registers of DeviceState, in the order of R24's table. -/
inductive Field where
  | valid | temp | tempUnits | isOn | mode | fanState | fanSpeed | turbo | quietType | tempDisplay
  | light | purify | ecoMode | heatAssist | humidifyType | xFan | xFanForHeat | intakeExhaust
  | horizontalAirDirection | verticalAirDirection | sleepCurveType
  | customSleepCurve (k : Fin 8)
  | timerOnOffEnable | timerOnEnable | timerOffEnable | minutesUntilOn | minutesUntilOff
  | timerRemoteFlag | clock | dayOfWeek | onTime | offTime | dayOfWeekOnMask | dayOfWeekOffMask
  | timerOnUseClock | timerOffUseClock | sleepCurveClock | sleepCurveClockInvalid
  | useRemoteTempSensor | remoteTempVal | noiseControlEnable | noiseControlHeating
  | noiseControlCooling | regionalSwingPosition | regionalSwingAvoidPeople | modeMysteryBit2
  | modeMysteryBit3 | pass27 | pass41
  deriving DecidableEq, Repr

/-- The field id of R24's table, used by RDF and WRF. -/
def Field.id : Field → Byte
  | .valid => 0x00 | .temp => 0x01 | .tempUnits => 0x02 | .isOn => 0x03 | .mode => 0x04
  | .fanState => 0x05 | .fanSpeed => 0x06 | .turbo => 0x07 | .quietType => 0x08
  | .tempDisplay => 0x09 | .light => 0x0A | .purify => 0x0B | .ecoMode => 0x0C
  | .heatAssist => 0x0D | .humidifyType => 0x0E | .xFan => 0x0F | .xFanForHeat => 0x10
  | .intakeExhaust => 0x11 | .horizontalAirDirection => 0x12 | .verticalAirDirection => 0x13
  | .sleepCurveType => 0x14
  | .customSleepCurve k => BitVec.ofNat 8 (0x15 + k.val)
  | .timerOnOffEnable => 0x1D | .timerOnEnable => 0x1E | .timerOffEnable => 0x1F
  | .minutesUntilOn => 0x20 | .minutesUntilOff => 0x21 | .timerRemoteFlag => 0x22
  | .clock => 0x23 | .dayOfWeek => 0x24 | .onTime => 0x25 | .offTime => 0x26
  | .dayOfWeekOnMask => 0x27 | .dayOfWeekOffMask => 0x28 | .timerOnUseClock => 0x29
  | .timerOffUseClock => 0x2A | .sleepCurveClock => 0x2B | .sleepCurveClockInvalid => 0x2C
  | .useRemoteTempSensor => 0x2D | .remoteTempVal => 0x2E | .noiseControlEnable => 0x2F
  | .noiseControlHeating => 0x30 | .noiseControlCooling => 0x31
  | .regionalSwingPosition => 0x32 | .regionalSwingAvoidPeople => 0x33
  | .modeMysteryBit2 => 0x34 | .modeMysteryBit3 => 0x35 | .pass27 => 0x36 | .pass41 => 0x37

/-- The register width in bits of R24's table. -/
def Field.width : Field → Nat
  | .valid => 1 | .temp => 8 | .tempUnits => 2 | .isOn => 1 | .mode => 4 | .fanState => 4
  | .fanSpeed => 3 | .turbo => 1 | .quietType => 2 | .tempDisplay => 2 | .light => 1
  | .purify => 1 | .ecoMode => 1 | .heatAssist => 8 | .humidifyType => 3 | .xFan => 1
  | .xFanForHeat => 1 | .intakeExhaust => 2 | .horizontalAirDirection => 3
  | .verticalAirDirection => 3 | .sleepCurveType => 8 | .customSleepCurve _ => 8
  | .timerOnOffEnable => 1 | .timerOnEnable => 1 | .timerOffEnable => 1
  | .minutesUntilOn => 11 | .minutesUntilOff => 11 | .timerRemoteFlag => 1 | .clock => 15
  | .dayOfWeek => 3 | .onTime => 11 | .offTime => 11 | .dayOfWeekOnMask => 8
  | .dayOfWeekOffMask => 8 | .timerOnUseClock => 2 | .timerOffUseClock => 2
  | .sleepCurveClock => 16 | .sleepCurveClockInvalid => 1 | .useRemoteTempSensor => 1
  | .remoteTempVal => 8 | .noiseControlEnable => 1 | .noiseControlHeating => 8
  | .noiseControlCooling => 8 | .regionalSwingPosition => 9 | .regionalSwingAvoidPeople => 1
  | .modeMysteryBit2 => 1 | .modeMysteryBit3 => 1 | .pass27 => 8 | .pass41 => 8

/-- The eight custom_sleep_curve registers, ids 0x15..0x1C. -/
def Field.customSleepCurves : List Field :=
  [.customSleepCurve 0, .customSleepCurve 1, .customSleepCurve 2, .customSleepCurve 3,
   .customSleepCurve 4, .customSleepCurve 5, .customSleepCurve 6, .customSleepCurve 7]

/-- Every field register, in id order. -/
def Field.all : List Field :=
  [.valid, .temp, .tempUnits, .isOn, .mode, .fanState, .fanSpeed, .turbo, .quietType,
   .tempDisplay, .light, .purify, .ecoMode, .heatAssist, .humidifyType, .xFan, .xFanForHeat,
   .intakeExhaust, .horizontalAirDirection, .verticalAirDirection, .sleepCurveType]
  ++ Field.customSleepCurves ++
  [.timerOnOffEnable, .timerOnEnable, .timerOffEnable, .minutesUntilOn, .minutesUntilOff,
   .timerRemoteFlag, .clock, .dayOfWeek, .onTime, .offTime, .dayOfWeekOnMask, .dayOfWeekOffMask,
   .timerOnUseClock, .timerOffUseClock, .sleepCurveClock, .sleepCurveClockInvalid,
   .useRemoteTempSensor, .remoteTempVal, .noiseControlEnable, .noiseControlHeating,
   .noiseControlCooling, .regionalSwingPosition, .regionalSwingAvoidPeople, .modeMysteryBit2,
   .modeMysteryBit3, .pass27, .pass41]

/-- The FIELD_MAP fields: those whose wire position is the OPEN parameter FIELD_MAP
(spec/43_decode.md R210, in its order). -/
def Field.mapped : List Field :=
  [.tempDisplay, .light, .purify, .ecoMode, .heatAssist, .humidifyType, .intakeExhaust,
   .horizontalAirDirection, .verticalAirDirection]
  ++ Field.customSleepCurves ++
  [.timerOnOffEnable, .timerOnEnable, .timerOffEnable, .minutesUntilOff, .timerRemoteFlag,
   .clock, .dayOfWeek, .onTime, .offTime, .dayOfWeekOnMask, .dayOfWeekOffMask,
   .timerOnUseClock, .timerOffUseClock, .sleepCurveClock, .sleepCurveClockInvalid,
   .useRemoteTempSensor, .remoteTempVal, .noiseControlEnable, .noiseControlHeating,
   .noiseControlCooling, .regionalSwingAvoidPeople, .modeMysteryBit2, .modeMysteryBit3]

/-- One segment (byte, hi, lo) of a segment list (spec/00_scope.md R9): bits hi..lo of a frame byte. -/
structure Seg where
  byte : Nat
  hi : Nat
  lo : Nat
  deriving DecidableEq, Repr

/-- The number of bits of a segment. -/
def Seg.width (s : Seg) : Nat := s.hi + 1 - s.lo

/-- The total width of a segment list. -/
def segsWidth : List Seg → Nat
  | [] => 0
  | s :: rest => s.width + segsWidth rest

/-- The number of bit `bit` of frame byte `byte` in the numbering of all bits of a frame. -/
def cellOf (byte bit : Nat) : Nat := 8 * byte + bit

/-- The bits a segment covers, lowest first. -/
def Seg.cells (s : Seg) : List Nat :=
  (List.range s.width).map fun i => cellOf s.byte (s.lo + i)

/-- The bits a segment list covers. -/
def segsCells (segs : List Seg) : List Nat := segs.flatMap Seg.cells

/-! ### Positions the spec states (R70, R71) -/

/-- is_on: bit 7 of byte 8. -/
def Wire.isOn : List Seg := [⟨8, 7, 7⟩]
/-- mode: bits 6-4 of byte 8. -/
def Wire.mode : List Seg := [⟨8, 6, 4⟩]
/-- x_fan and x_fan_for_heat share bit 3 of byte 10. -/
def Wire.xFan : List Seg := [⟨10, 3, 3⟩]
/-- turbo: bit 0 of byte 10. -/
def Wire.turbo : List Seg := [⟨10, 0, 0⟩]
/-- temp_units: bit 7 of byte 11. -/
def Wire.tempUnits : List Seg := [⟨11, 7, 7⟩]
/-- quiet_type: bits 3-2 of byte 20. -/
def Wire.quietType : List Seg := [⟨20, 3, 2⟩]
/-- The SIESTA bit: bit 7 of byte 20. -/
def Wire.siesta : List Seg := [⟨20, 7, 7⟩]
/-- fan_speed: bits 2-0 of byte 22. -/
def Wire.fanSpeed : List Seg := [⟨22, 2, 0⟩]
/-- minutes_until_on: the split field of bytes 17 (bits 6-4, high) and 16 (low). -/
def Wire.minutesUntilOn : List Seg := [⟨17, 6, 4⟩, ⟨16, 7, 0⟩]
/-- The upper temperature nibble: bits 7-4 of byte 9 (R71). -/
def Wire.tempUpper : List Seg := [⟨9, 7, 4⟩]
/-- The Fahrenheit lower bit: bit 6 of byte 11 (R71). -/
def Wire.tempLower : List Seg := [⟨11, 6, 6⟩]
/-- The Celsius half-degree bit: bit 3 of byte 14 (R71). -/
def Wire.tempHalf : List Seg := [⟨14, 3, 3⟩]
/-- The intent byte of a command frame (R73). -/
def Wire.intentByte : Nat := 4
/-- The byte whose PASS27_MASK bits pass through (R76). -/
def Wire.pass27Byte : Nat := 27
/-- The byte kept by DECODE and never emitted (R76). -/
def Wire.pass41Byte : Nat := 41

/-- All bits of R70 and R71, the intent byte included; each position once. -/
def Wire.stated : List Seg :=
  [⟨Wire.intentByte, 7, 0⟩] ++ Wire.isOn ++ Wire.mode ++ Wire.tempUpper ++ Wire.xFan ++ Wire.turbo
  ++ Wire.tempUnits ++ Wire.tempLower ++ Wire.tempHalf ++ Wire.minutesUntilOn ++ Wire.siesta
  ++ Wire.quietType ++ Wire.fanSpeed

/-! ### The OPEN parameters (R5, spec/93_implementation_defined.md section 2) -/

/-- SLEEP_HI: which byte's bit is bit 1 of the sleep-curve index (R74). -/
inductive SleepHi where
  | byte8
  | byte20
  deriving DecidableEq, Repr

/-- A set of values for the OPEN parameters, legal or not (R5). -/
structure Params where
  /-- INTENT_BASE (R254). -/
  intentBase : Byte
  /-- FIELD_MAP (R72): the segment list of each FIELD_MAP field, most significant segment first.
  It is consulted only at the fields of `Field.mapped`. -/
  fieldMap : Field → List Seg
  /-- SLEEP_B8: the index bit of byte 8 (R74). -/
  sleepB8 : Nat
  /-- SLEEP_B20: the index bit of byte 20 (R74). -/
  sleepB20 : Nat
  /-- SLEEP_HI (R74). -/
  sleepHi : SleepHi
  /-- SWING_BYTE (R75). -/
  swingByte : Nat
  /-- The byte b of SWING_SPILL = (b, k) (R75). -/
  swingSpillByte : Nat
  /-- The bit k of SWING_SPILL = (b, k) (R75). -/
  swingSpillBit : Nat
  /-- PASS27_MASK (R76). -/
  pass27Mask : Byte
  /-- W_HA, the wire width of heat_assist. -/
  wHa : Nat
  /-- W_REMOTE, the wire width of remote_temp_val. -/
  wRemote : Nat
  /-- W_NOISE, the wire width of each noise threshold. -/
  wNoise : Nat
  /-- W_CURVE, the wire width of each custom_sleep_curve entry. -/
  wCurve : Nat
  /-- W_SCCLOCK, the wire width of sleep_curve_clock. -/
  wScclock : Nat

/-- The total width FIELD_MAP must give a field (R72(c)): its OPEN width where it has one, else its register width. -/
def Params.wireWidth (p : Params) : Field → Nat
  | .heatAssist => p.wHa
  | .remoteTempVal => p.wRemote
  | .noiseControlHeating => p.wNoise
  | .noiseControlCooling => p.wNoise
  | .customSleepCurve _ => p.wCurve
  | .sleepCurveClock => p.wScclock
  | f => f.width

/-- The bit of byte 8 in the sleep-curve index (R74). -/
def Params.sleepSeg8 (p : Params) : Seg := ⟨8, p.sleepB8, p.sleepB8⟩

/-- The bit of byte 20 in the sleep-curve index (R74). -/
def Params.sleepSeg20 (p : Params) : Seg := ⟨20, p.sleepB20, p.sleepB20⟩

/-- The sleep-curve index as a segment list, index bit 1 first: `idx(f)` of R74 is its extraction. -/
def Params.sleepIndex (p : Params) : List Seg :=
  match p.sleepHi with
  | .byte8 => [p.sleepSeg8, p.sleepSeg20]
  | .byte20 => [p.sleepSeg20, p.sleepSeg8]

/-- The normal position byte of regional_swing_position (R75). -/
def Params.swingPosition (p : Params) : List Seg := [⟨p.swingByte, 7, 0⟩]

/-- The spillover bit of regional_swing_position (R75). -/
def Params.swingSpill (p : Params) : List Seg := [⟨p.swingSpillByte, p.swingSpillBit, p.swingSpillBit⟩]

/-- The bits of byte 27 in PASS27_MASK (R76). -/
def Params.pass27Cells (p : Params) : List Nat :=
  ((List.range 8).filter fun k => p.pass27Mask.getLsbD k).map fun k => cellOf Wire.pass27Byte k

/-- Every bit of a frame that some position covers, each as often as it is covered (R72(d)). -/
def Params.coveredCells (p : Params) : List Nat :=
  segsCells Wire.stated ++ segsCells p.sleepIndex ++ segsCells p.swingPosition
  ++ segsCells p.swingSpill ++ p.pass27Cells ++ Field.mapped.flatMap fun g => segsCells (p.fieldMap g)

end Sys2Proof
end

