-- ==== Sys2Proof/WellFormed.lean ====
section
/-! DEFINITION. Which sets of OPEN parameters are legal (spec/20_memory.md R72 to R76, spec/93_implementation_defined.md
section 2). A model must refuse an ill-formed set before any step: `Config` (Sys2Proof/Config.lean) holds a legal set only.
Commands need no check of this kind: every term of `Instr` is a command the host can issue, since each operand has the
width the encoding gives it (spec/30_encoding.md R100, R101). -/

namespace Sys2Proof

/-- The lowest and highest frame byte an OPEN position may name (R72(b)). -/
def firstMapByte : Nat := 5
/-- The last payload byte of a 40-byte command frame (R72(b)). -/
def lastMapByte : Nat := 38

/-- R72(a), (b): the segment's bits are bits of a byte, and the byte is one of 5..38. -/
def Seg.wf (s : Seg) : Bool :=
  decide (s.lo ≤ s.hi) && decide (s.hi ≤ 7) && decide (firstMapByte ≤ s.byte)
    && decide (s.byte ≤ lastMapByte)

/-- R72(a), (b) for every segment of FIELD_MAP. -/
def Params.segmentsWf (p : Params) : Bool := Field.mapped.all fun g => (p.fieldMap g).all Seg.wf

/-- R72(c): each FIELD_MAP field has the total width its register or its OPEN width asks for. -/
def Params.widthsAgree (p : Params) : Bool :=
  Field.mapped.all fun g => segsWidth (p.fieldMap g) == p.wireWidth g

/-- R72(c): each OPEN width is at least 1 and at most the register width. -/
def Params.openWidthsWf (p : Params) : Bool :=
  decide (1 ≤ p.wHa ∧ p.wHa ≤ 8 ∧ 1 ≤ p.wRemote ∧ p.wRemote ≤ 8 ∧ 1 ≤ p.wNoise ∧ p.wNoise ≤ 8
    ∧ 1 ≤ p.wCurve ∧ p.wCurve ≤ 8 ∧ 1 ≤ p.wScclock ∧ p.wScclock ≤ 16)

/-- R254, decision D21: INTENT_BASE has bits 1 and 6 clear. -/
def Params.intentBaseWf (p : Params) : Bool :=
  !p.intentBase.getLsbD 1 && !p.intentBase.getLsbD 6

/-- R74: SLEEP_B8 ∈ {0,1,2,3} and SLEEP_B20 ∈ {0,1,4,5,6}. -/
def Params.sleepWf (p : Params) : Bool :=
  [0, 1, 2, 3].contains p.sleepB8 && [0, 1, 4, 5, 6].contains p.sleepB20

/-- R75: the position byte and the spill bit lie in bytes 5..38, and in different bytes. -/
def Params.swingWf (p : Params) : Bool :=
  p.swingPosition.all Seg.wf && p.swingSpill.all Seg.wf && p.swingSpillByte != p.swingByte

/-- R72(d): no bit is covered twice. -/
def Params.disjoint (p : Params) : Bool := decide p.coveredCells.Nodup

/-- The parameter set is legal. -/
def Params.wf (p : Params) : Bool :=
  p.segmentsWf && p.widthsAgree && p.openWidthsWf && p.intentBaseWf && p.sleepWf && p.swingWf
    && p.disjoint

end Sys2Proof
end

