-- ==== Sys2Proof/Config.lean ====
section
/-! DEFINITION. What is fixed for the life of the block (spec/00_scope.md R5): the constants the spec settles, and ONE legal
set of the OPEN parameters, about which nothing is known but that it is legal. -/

namespace Sys2Proof

/-! ### Fixed parameters (R5) -/

/-- SYNC. -/
abbrev sync : Byte := 0x7E#8
/-- MAX_LEN, the largest legal length byte. -/
abbrev maxLen : Nat := 60
/-- MIN_STATUS_LEN, the smallest total status-frame length DECODE accepts. -/
abbrev minStatusLen : Nat := 51
/-- CMD_FRAME_LEN, the total length of an ENCODE or ENCRT frame. -/
abbrev cmdFrameLen : Nat := 40
/-- QUERY_FRAME_LEN. -/
abbrev queryFrameLen : Nat := 5
/-- TYPE_QUERY. -/
abbrev typeQuery : Byte := 0x02#8
/-- TYPE_COMMAND. -/
abbrev typeCommand : Byte := 0x01#8
/-- TYPE_STATUS_A. -/
abbrev typeStatusA : Byte := 0x31#8
/-- TYPE_STATUS_B. -/
abbrev typeStatusB : Byte := 0x32#8
/-- RXCAP and TXCAP, in bytes. -/
abbrev bufferCap : Nat := 64
/-- The largest payload WRAP accepts (spec/41_frame_layer.md R160). -/
abbrev maxPayload : Nat := 58

/-! ### The OPEN parameters -/

/-- Some legal parameter set. It shows that legal sets exist and serves tests; NO value of it is a value of the
hardware (log entry 4). -/
def Params.sample : Params where
  intentBase := 0x00#8
  fieldMap
    | .tempDisplay => [⟨34, 1, 0⟩]
    | .light => [⟨34, 2, 2⟩]
    | .purify => [⟨34, 3, 3⟩]
    | .ecoMode => [⟨34, 4, 4⟩]
    | .heatAssist => [⟨21, 7, 0⟩]
    | .humidifyType => [⟨34, 7, 5⟩]
    | .intakeExhaust => [⟨35, 1, 0⟩]
    | .horizontalAirDirection => [⟨35, 4, 2⟩]
    | .verticalAirDirection => [⟨35, 7, 5⟩]
    | .customSleepCurve k => [⟨28 + k.val / 2, 4 * (k.val % 2) + 3, 4 * (k.val % 2)⟩]
    | .timerOnOffEnable => [⟨10, 1, 1⟩]
    | .timerOnEnable => [⟨10, 2, 2⟩]
    | .timerOffEnable => [⟨10, 4, 4⟩]
    | .minutesUntilOff => [⟨13, 2, 0⟩, ⟨15, 7, 0⟩]
    | .timerRemoteFlag => [⟨10, 5, 5⟩]
    | .clock => [⟨36, 6, 0⟩, ⟨37, 7, 0⟩]
    | .dayOfWeek => [⟨33, 3, 1⟩]
    | .onTime => [⟨5, 2, 0⟩, ⟨6, 7, 0⟩]
    | .offTime => [⟨7, 2, 0⟩, ⟨12, 7, 0⟩]
    | .dayOfWeekOnMask => [⟨26, 7, 0⟩]
    | .dayOfWeekOffMask => [⟨38, 7, 0⟩]
    | .timerOnUseClock => [⟨33, 5, 4⟩]
    | .timerOffUseClock => [⟨33, 7, 6⟩]
    | .sleepCurveClock => [⟨18, 7, 0⟩, ⟨19, 7, 0⟩]
    | .sleepCurveClockInvalid => [⟨10, 6, 6⟩]
    | .useRemoteTempSensor => [⟨10, 7, 7⟩]
    | .remoteTempVal => [⟨23, 7, 0⟩]
    | .noiseControlEnable => [⟨14, 0, 0⟩]
    | .noiseControlHeating => [⟨24, 5, 0⟩]
    | .noiseControlCooling => [⟨25, 5, 0⟩]
    | .regionalSwingAvoidPeople => [⟨14, 1, 1⟩]
    | .modeMysteryBit2 => [⟨14, 4, 4⟩]
    | .modeMysteryBit3 => [⟨14, 5, 5⟩]
    | _ => []
  sleepB8 := 0
  sleepB20 := 4
  sleepHi := .byte8
  swingByte := 32
  swingSpillByte := 33
  swingSpillBit := 0
  pass27Mask := 0xF0#8
  wHa := 8
  wRemote := 8
  wNoise := 6
  wCurve := 4
  wScclock := 16

theorem Params.sample_legal : Params.sample.wf = true := by decide +kernel

/-- A legal set of the OPEN parameters: an ill-formed set cannot be given (R72, "refuse if ill-formed"). -/
structure Config where
  params : Params := Params.sample
  legal : params.wf = true := by exact Params.sample_legal
  deriving Inhabited

/-- The parameter set of the block: any legal one. It has no body, so what is proved of it holds for every legal set
(R5: "the model must be proved for every legal value of it"; log entry 4). -/
opaque Config.machine : Config

/-- The segment list FIELD_MAP gives a FIELD_MAP field (R72). -/
def Config.fieldMap (c : Config) (g : Field) : List Seg := c.params.fieldMap g

end Sys2Proof
end

