-- ==== Sys2Proof/Syntax.lean ====
section
/-! DEFINITION. The command set of the block: one constructor per row of spec/opcode_table.json
(spec/30_encoding.md R102). A constructor carries exactly the operands R102 says its command uses; operand bits a
command does not use are ignored (R101) and so stand in no constructor. -/

namespace Sys2Proof

/-- A command. The width of each operand is the one spec/30_encoding.md R100, R101 gives it, so every term is a
command the host can issue. -/
inductive Instr where
  /-- R130: no operation. -/
  | nop
  /-- R132: empty the receive buffer. -/
  | rxclr
  /-- R134: append `byte` = B[7:0] to the receive buffer. -/
  | rxpush (byte : Byte)
  /-- R135: read receive-buffer byte `index` = A. -/
  | rxrd (index : Byte)
  /-- R137: empty the transmit buffer. -/
  | txclr
  /-- R138: write `byte` = B[7:0] at transmit index `index` = A. -/
  | txput (index : Byte) (byte : Byte)
  /-- R139: read byte `index` = A of the current transmit frame. -/
  | txrd (index : Byte)
  /-- R151: checksum of the receive buffer. -/
  | cksum
  /-- R153: check the 3-byte header in RX. -/
  | hdrchk
  /-- R155: validate the frame in RX. -/
  | validate
  /-- R160: wrap the `len` = B[7:0] payload bytes staged at TX[4..] into a frame of type `type` = A. -/
  | wrap (type : Byte) (len : Byte)
  /-- R163: build the query frame. -/
  | query
  /-- R200: decode the status frame in RX into DS. -/
  | decode
  /-- R240: build a command frame from the snapshot; `latch` = A[0] is the timer latch. -/
  | encode (latch : BitVec 1)
  /-- R260: build the remote-temperature update frame. -/
  | encrt
  /-- R180: read field register `field` = A. -/
  | rdf (field : Byte)
  /-- R182: write `value` = B to field register `field` = A. -/
  | wrf (field : Byte) (value : Half)
  /-- R284: evaluate decode_temp; `units` = A[0], `upper` = B[3:0], `lo` = B[4], `h` = B[5]. -/
  | tdec (units : BitVec 1) (upper : BitVec 4) (lo : BitVec 1) (h : BitVec 1)
  /-- R286: evaluate encode_temp; `units` = A[0], `t2` = B[7:0]. -/
  | tenc (units : BitVec 1) (t2 : Byte)
  /-- R186: soft reset. -/
  | srst
  deriving DecidableEq, Repr

end Sys2Proof
end

