-- ==== Sys2Proof/Decode.lean ====
section
/-! DEFINITION. From command words to commands and back (spec/30_encoding.md R100 to R103). -/

namespace Sys2Proof

/-- Why a command word is no command. -/
inductive DecodeReject where
  /-- R103: OP is none of the 20 values of R102. -/
  | illegalOp (op : Byte)
  deriving DecidableEq, Repr

/-- OP = bits 31:24 (R100). -/
def opOf (w : Word) : Byte := w.extractLsb' 24 8
/-- A = bits 23:16 (R100). -/
def aOf (w : Word) : Byte := w.extractLsb' 16 8
/-- B = bits 15:0 (R100). -/
def bOf (w : Word) : Half := w.extractLsb' 0 16
/-- b8 = B[7:0] (R101). -/
def b8Of (w : Word) : Byte := w.extractLsb' 0 8
/-- flag = A[0] (R101). -/
def flagOf (w : Word) : BitVec 1 := w.extractLsb' 16 1

/-- The command a word stands for. The match is on OP alone; operand bits the command does not use are ignored
(R101, R102). Every other OP is rejected by name (R103). -/
def decode (w : Word) : Except DecodeReject Instr :=
  match (opOf w).toNat with
  | 0x00 => .ok .nop
  | 0x01 => .ok .rxclr
  | 0x02 => .ok (.rxpush (b8Of w))
  | 0x03 => .ok (.rxrd (aOf w))
  | 0x04 => .ok .txclr
  | 0x05 => .ok (.txput (aOf w) (b8Of w))
  | 0x06 => .ok (.txrd (aOf w))
  | 0x10 => .ok .cksum
  | 0x11 => .ok .hdrchk
  | 0x12 => .ok .validate
  | 0x13 => .ok (.wrap (aOf w) (b8Of w))
  | 0x14 => .ok .query
  | 0x20 => .ok .decode
  | 0x21 => .ok (.encode (flagOf w))
  | 0x22 => .ok .encrt
  | 0x30 => .ok (.rdf (aOf w))
  | 0x31 => .ok (.wrf (aOf w) (bOf w))
  | 0x40 => .ok (.tdec (flagOf w) (w.extractLsb' 0 4) (w.extractLsb' 4 1) (w.extractLsb' 5 1))
  | 0x41 => .ok (.tenc (flagOf w) (b8Of w))
  | 0xF0 => .ok .srst
  | _ => .error (.illegalOp (opOf w))

/-- The decoder over an instruction's bits numbered as spec/opcode_table.json numbers them. A command is one 32-bit word,
presented whole, so those bits are the word's; bits at and above `nbits` are 0. -/
def decodeTableWord (nbits w : Nat) : Option Instr :=
  match decode (BitVec.ofNat 32 (w % 2 ^ nbits)) with
  | .ok i => some i
  | .error _ => none

/-- The word {op, a, b} of format CMD (R100). -/
def cmdWord (op a : Byte) (b : Half) : Word := op ++ a ++ b

/-- The word of a command as the assembler writes it: unused operand bits are 0 (R105). -/
def encode : Instr → Word
  | .nop => cmdWord 0x00 0 0
  | .rxclr => cmdWord 0x01 0 0
  | .rxpush byte => cmdWord 0x02 0 (byte.setWidth 16)
  | .rxrd index => cmdWord 0x03 index 0
  | .txclr => cmdWord 0x04 0 0
  | .txput index byte => cmdWord 0x05 index (byte.setWidth 16)
  | .txrd index => cmdWord 0x06 index 0
  | .cksum => cmdWord 0x10 0 0
  | .hdrchk => cmdWord 0x11 0 0
  | .validate => cmdWord 0x12 0 0
  | .wrap type len => cmdWord 0x13 type (len.setWidth 16)
  | .query => cmdWord 0x14 0 0
  | .decode => cmdWord 0x20 0 0
  | .encode latch => cmdWord 0x21 (latch.setWidth 8) 0
  | .encrt => cmdWord 0x22 0 0
  | .rdf field => cmdWord 0x30 field 0
  | .wrf field value => cmdWord 0x31 field value
  | .tdec units upper lo h =>
      cmdWord 0x40 (units.setWidth 8) (upper.setWidth 16 ||| lo.setWidth 16 <<< 4 ||| h.setWidth 16 <<< 5)
  | .tenc units t2 => cmdWord 0x41 (units.setWidth 8) (t2.setWidth 16)
  | .srst => cmdWord 0xF0 0 0

end Sys2Proof
end

