-- ==== Sys2Proof/Machine/State.lean ====
section
/-! DEFINITION. The architectural state of the block (spec/10_state.md R20), as plain data, and its reset value
(spec/70_reset_and_hazards.md R320). -/

namespace Sys2Proof.Machine

/-- A byte buffer, RX or TX (spec/20_memory.md R60): its bytes by index, in ONE canonical form: indices strictly
rising, and no entry equal to what an unlisted index reads as. -/
abbrev Memory := List Host.Cell

/-- What an index that is not listed reads as: 0x00, the reset value of every buffer byte (R320). -/
def unlistedByte : Byte := 0x00#8

/-- The error codes STATUS.ERR can hold (spec/60_exceptions.md R300). Codes 12..15 are never written. -/
inductive ErrCode where
  | ok
  | malformedHeader
  | checksumMismatch
  | truncatedFrame
  | invalidStateForEncode
  | shortBuffer
  | lengthMismatch
  | unexpectedFrameType
  | unvalidatedFrame
  | bufferOverflow
  | badOperand
  | illegalCommand
  deriving DecidableEq, Repr

/-- The DeviceState field registers, each at the width of spec/10_state.md R24. -/
structure DeviceState where
  valid : BitVec 1
  temp : BitVec 8
  tempUnits : BitVec 2
  isOn : BitVec 1
  mode : BitVec 4
  fanState : BitVec 4
  fanSpeed : BitVec 3
  turbo : BitVec 1
  quietType : BitVec 2
  tempDisplay : BitVec 2
  light : BitVec 1
  purify : BitVec 1
  ecoMode : BitVec 1
  heatAssist : BitVec 8
  humidifyType : BitVec 3
  xFan : BitVec 1
  xFanForHeat : BitVec 1
  intakeExhaust : BitVec 2
  horizontalAirDirection : BitVec 3
  verticalAirDirection : BitVec 3
  sleepCurveType : BitVec 8
  customSleepCurve : Vector (BitVec 8) 8
  timerOnOffEnable : BitVec 1
  timerOnEnable : BitVec 1
  timerOffEnable : BitVec 1
  minutesUntilOn : BitVec 11
  minutesUntilOff : BitVec 11
  timerRemoteFlag : BitVec 1
  clock : BitVec 15
  dayOfWeek : BitVec 3
  onTime : BitVec 11
  offTime : BitVec 11
  dayOfWeekOnMask : BitVec 8
  dayOfWeekOffMask : BitVec 8
  timerOnUseClock : BitVec 2
  timerOffUseClock : BitVec 2
  sleepCurveClock : BitVec 16
  sleepCurveClockInvalid : BitVec 1
  useRemoteTempSensor : BitVec 1
  remoteTempVal : BitVec 8
  noiseControlEnable : BitVec 1
  noiseControlHeating : BitVec 8
  noiseControlCooling : BitVec 8
  regionalSwingPosition : BitVec 9
  regionalSwingAvoidPeople : BitVec 1
  modeMysteryBit2 : BitVec 1
  modeMysteryBit3 : BitVec 1
  pass27 : BitVec 8
  pass41 : BitVec 8
  deriving DecidableEq, Repr

/-- The snapshot right after reset (R320): 0 but for mode, temp_units and fan_state. -/
def DeviceState.reset : DeviceState where
  valid := 0
  temp := 0
  tempUnits := 2
  isOn := 0
  mode := 8
  fanState := 15
  fanSpeed := 0
  turbo := 0
  quietType := 0
  tempDisplay := 0
  light := 0
  purify := 0
  ecoMode := 0
  heatAssist := 0
  humidifyType := 0
  xFan := 0
  xFanForHeat := 0
  intakeExhaust := 0
  horizontalAirDirection := 0
  verticalAirDirection := 0
  sleepCurveType := 0
  customSleepCurve := Vector.replicate 8 0
  timerOnOffEnable := 0
  timerOnEnable := 0
  timerOffEnable := 0
  minutesUntilOn := 0
  minutesUntilOff := 0
  timerRemoteFlag := 0
  clock := 0
  dayOfWeek := 0
  onTime := 0
  offTime := 0
  dayOfWeekOnMask := 0
  dayOfWeekOffMask := 0
  timerOnUseClock := 0
  timerOffUseClock := 0
  sleepCurveClock := 0
  sleepCurveClockInvalid := 0
  useRemoteTempSensor := 0
  remoteTempVal := 0
  noiseControlEnable := 0
  noiseControlHeating := 0
  noiseControlCooling := 0
  regionalSwingPosition := 0
  regionalSwingAvoidPeople := 0
  modeMysteryBit2 := 0
  modeMysteryBit3 := 0
  pass27 := 0
  pass41 := 0

/-- The state of the block (R20) and the commands the host is still going to present. STATUS (R27) is the view
`State.status` (Sys2Proof/Machine/Flags.lean): its ERR and WARN bits are the fields below, its VALID and RXOK bits
mirror `ds.valid` and `rxok`. -/
structure State where
  /-- RX[0..63] (R60). -/
  rx : Memory
  /-- RXLEN, 0..64 (R29). -/
  rxlen : Fin 65
  /-- RXOK (R29). -/
  rxok : Bool
  /-- TX[0..63] (R60). -/
  tx : Memory
  /-- TXLEN, 0..64 (R29). -/
  txlen : Fin 65
  /-- DS, the field-register file (R24). -/
  ds : DeviceState
  /-- STATUS.ERR (R27, R300). -/
  err : ErrCode
  /-- STATUS.WARN_UNREC (R27). -/
  warnUnrec : Bool
  /-- STATUS.WARN_QUIET3 (R27). -/
  warnQuiet3 : Bool
  /-- RESULT (R28). -/
  result : Half
  /-- The MODEL's own field: the command words the host is still going to present, the next one first
  (R10, R21; log entries 1 and 3). -/
  pending : List Word
  /-- The MODEL's own field: the index of the current command in the host's sequence, the "pc" of R21
  (log entry 2). -/
  index : Nat
  deriving DecidableEq, Repr

/-- The block right after power-on (R320), with no command presented yet. -/
def State.reset : State where
  rx := []
  rxlen := 0
  rxok := false
  tx := []
  txlen := 0
  ds := DeviceState.reset
  err := .ok
  warnUnrec := false
  warnQuiet3 := false
  result := 0
  pending := []
  index := 0

/-- The reasons the machine stops with a fault: there are none. Every failure of the block is a defined error outcome
in STATUS.ERR after which it goes on, and the spec leaves nothing as a fault
(spec/60_exceptions.md R302, R313; spec/93_implementation_defined.md section 3; log entry 6). -/
inductive Fault where
  deriving DecidableEq, Repr

/-- The reasons a command has no meaning. -/
inductive Refusal where
  /-- Raised by an arm of `exec` whose instruction has no meaning yet; no arm does. Safe: the machine stops where the
  hardware goes on. -/
  | notModelled (mnemonic : String)
  deriving DecidableEq, Repr

/-- What a command ends in. -/
abbrev StepResult := Host.Outcome State Fault Refusal

end Sys2Proof.Machine
end

