-- ==== Sys2Proof/Machine/Ops.lean ====
section
/-! DEFINITION. The shared operations: buffers as byte memories, bit fields and segment lists, the named updates of the
state, ending a command with `ok` or `raise`, and taking the next command from the host. -/

namespace Sys2Proof.Machine

/-! ### Byte memories (spec/20_memory.md R60) -/

/-- Read the byte at an index. -/
def Memory.read : Memory → Nat → Byte
  | [], _ => unlistedByte
  | c :: m, a => if c.1 = a then c.2 else Memory.read m a

/-- Forget whatever is listed at an index. -/
def Memory.erase (m : Memory) (a : Nat) : Memory := m.filter fun c => c.1 != a

/-- List a byte at an index, in front of the first higher one. -/
def Memory.insert : Memory → Nat → Byte → Memory
  | [], a, b => [(a, b)]
  | c :: m, a, b => if a < c.1 then (a, b) :: c :: m else c :: Memory.insert m a b

/-- Write the byte at an index, keeping the canonical form: writing what an unlisted index reads as removes the entry. -/
def Memory.write (m : Memory) (a : Nat) (b : Byte) : Memory :=
  if b = unlistedByte then m.erase a else (m.erase a).insert a b

/-- A buffer all of whose bytes are 0 (RXCLR, TXCLR, reset, a fresh command frame). -/
def Memory.zero : Memory := []

/-- Indices strictly rising. -/
def Memory.sorted : Memory → Bool
  | [] => true
  | [_] => true
  | c :: d :: m => decide (c.1 < d.1) && Memory.sorted (d :: m)

/-- The canonical form of a 64-byte buffer. -/
def Memory.wf (m : Memory) : Bool :=
  m.sorted && m.all fun c => decide (c.1 < bufferCap) && c.2 != unlistedByte

/-! ### Bit fields and segment lists (spec/00_scope.md R7, R9) -/

/-- `b[hi:lo]` as a number. -/
def slice (b : Byte) (hi lo : Nat) : Nat := b.toNat / 2 ^ lo % 2 ^ (hi + 1 - lo)

/-- `b` with `b[hi:lo]` replaced by the low bits of `v`. -/
def setSlice (b : Byte) (hi lo v : Nat) : Byte :=
  let mask := BitVec.ofNat 8 ((2 ^ (hi + 1 - lo) - 1) <<< lo)
  (b &&& ~~~mask) ||| (BitVec.ofNat 8 (v <<< lo) &&& mask)

/-- `extract(f, segs)`: the concatenation of the segments, most significant first. -/
def extract (f : Memory) : List Seg → Nat
  | [] => 0
  | s :: rest => slice (f.read s.byte) s.hi s.lo * 2 ^ segsWidth rest + extract f rest

/-- `insert(T, segs, v)`: write the bits of `v` into the segments, most significant bits into the first one, leaving
every other bit of T. -/
def insertBits (t : Memory) : List Seg → Nat → Memory
  | [], _ => t
  | s :: rest, v =>
      insertBits (t.write s.byte (setSlice (t.read s.byte) s.hi s.lo (v / 2 ^ segsWidth rest))) rest v

/-- `f[i][k]`, bit k of byte i, by the number of the bit in the frame (R7). -/
def frameBit (f : Memory) (cell : Nat) : Bool := (f.read (cell / 8)).getLsbD (cell % 8)

/-! ### Named updates of the state -/

/-- Replace RX and RXLEN. Every command that changes RX clears RXOK (spec/10_state.md R29). -/
def State.withRx (s : State) (m : Memory) (len : Fin 65) : State :=
  { s with rx := m, rxlen := len, rxok := false }

/-- RXOK ← b. -/
def State.withRxok (s : State) (b : Bool) : State := { s with rxok := b }

/-- Replace TX and TXLEN. -/
def State.withTx (s : State) (m : Memory) (len : Fin 65) : State := { s with tx := m, txlen := len }

/-- TXLEN ← len. -/
def State.withTxlen (s : State) (len : Fin 65) : State := { s with txlen := len }

/-- DS ← d. -/
def State.withDs (s : State) (d : DeviceState) : State := { s with ds := d }

/-- The two WARN bits of STATUS. -/
def State.withWarnings (s : State) (unrec quiet3 : Bool) : State :=
  { s with warnUnrec := unrec, warnQuiet3 := quiet3 }

/-- STATUS.ERR and RESULT, which every command writes (spec/10_state.md R27, R28). -/
def State.finish (s : State) (e : ErrCode) (r : Half) : State := { s with err := e, result := r }

/-! ### Ending a command (spec/00_scope.md R8) -/

/-- `ok(r)`: STATUS.ERR ← 0, RESULT ← r. -/
def succeed (s : State) (r : Half) : StepResult := .next (s.finish .ok r)

/-- `raise E`, the block's one error outcome (spec/60_exceptions.md R302): STATUS.ERR ← code(E), RESULT ← 0, and no
other change but those already made to `s` by the command's own rule. There is no trap entry, nothing is saved and the
next command executes normally (R307); so there is no return from it either (R308). -/
def raise (s : State) (e : ErrCode) : StepResult := .next (s.finish e 0)

/-! ### Presenting a command (spec/00_scope.md R10, spec/10_state.md R21) -/

/-- The next command word and the state in which it runs: the word is no longer pending, and the index of the current
command has advanced by one (R21). None when the host presents no command. -/
def fetch (s : State) : Option (Word × State) :=
  match s.pending with
  | [] => none
  | w :: rest => some (w, { s with pending := rest, index := s.index + 1 })

/-- An illegal command word (spec/30_encoding.md R103): IllegalCommand, and no other state changes. -/
def execIllegal (s : State) : StepResult := raise s .illegalCommand

/-- What a step does while the host presents no command: nothing (log entry 1). -/
def idle (s : State) : StepResult := .next s

/-- Present a command word next, in place of the one that would have come. -/
def present (s : State) (w : Word) : State := { s with pending := w :: s.pending.tail }

end Sys2Proof.Machine
end

