-- ==== Sys2Proof/Machine/Operands.lean ====
section
/-! DEFINITION. Field registers as operands: ids, reading, writing and the values WRF accepts
(spec/10_state.md R24, R26, spec/42_field_access.md R180 to R183), and the codes of the enumerations (R26). -/

namespace Sys2Proof.Machine

/-! ### Enumeration codes (spec/10_state.md R26) -/

/-- mode, in the order of R26; 8 is UNKNOWN, the reset value, never on the wire. -/
abbrev modeAuto : BitVec 4 := 0
abbrev modeCool : BitVec 4 := 1
abbrev modeDry : BitVec 4 := 2
abbrev modeFan : BitVec 4 := 3
abbrev modeHeat : BitVec 4 := 4
abbrev mode5 : BitVec 4 := 5
abbrev mode6 : BitVec 4 := 6
abbrev mode7 : BitVec 4 := 7
abbrev modeUnknown : BitVec 4 := 8

/-- temp_units; 2 is UNKNOWN, the reset value, never on the wire. -/
abbrev unitsCelsius : BitVec 2 := 0
abbrev unitsFahrenheit : BitVec 2 := 1
abbrev unitsUnknown : BitVec 2 := 2

/-- quiet_type. -/
abbrev quietNone : BitVec 2 := 0
abbrev quietAuto : BitVec 2 := 1
abbrev quietQuiet : BitVec 2 := 2
abbrev quietReserved : BitVec 2 := 3

/-- fan_state; 1..5 are LEVEL_1..LEVEL_5, equal to their fan_speed. -/
abbrev fanAuto : BitVec 4 := 0
abbrev fanLevel1 : BitVec 4 := 1
abbrev fanLevel2 : BitVec 4 := 2
abbrev fanLevel3 : BitVec 4 := 3
abbrev fanLevel4 : BitVec 4 := 4
abbrev fanLevel5 : BitVec 4 := 5
abbrev fanTurbo : BitVec 4 := 6
abbrev fanQuiet : BitVec 4 := 7
abbrev fanAutoQuiet : BitVec 4 := 8
abbrev fanUnknownQuiet : BitVec 4 := 9
abbrev fanUnknown : BitVec 4 := 10
abbrev fanNone : BitVec 4 := 15

/-- sleep_curve_type: the index order, and the SIESTA sentinel. -/
abbrev sleepNone : BitVec 8 := 0
abbrev sleepExpert : BitVec 8 := 1
abbrev sleepTraditional : BitVec 8 := 2
abbrev sleepDiy : BitVec 8 := 3
abbrev sleepSiesta : BitVec 8 := 128

/-- temp_display. -/
abbrev displayNone : BitVec 2 := 0
abbrev displaySetpoint : BitVec 2 := 1
abbrev displayIndoor : BitVec 2 := 2
abbrev displayOutdoor : BitVec 2 := 3

/-- intake_exhaust. -/
abbrev airNone : BitVec 2 := 0
abbrev airIntake : BitVec 2 := 1
abbrev airExhaust : BitVec 2 := 2
abbrev airOther : BitVec 2 := 3

/-- humidify_type 0 is none; code 7 of the three "7 variants" fields is unrecognized. -/
abbrev humidifyNone : BitVec 3 := 0
abbrev unrecognizedVariant : BitVec 3 := 7

/-- regional_swing_position 256, the overflow sentinel. -/
abbrev swingOverflow : BitVec 9 := 256

/-! ### Field ids -/

/-- The field register an operand A names; none for the undefined ids 0x38..0xFF. -/
def fieldOfId? (a : Byte) : Option Field := Field.all.find? fun f => f.id == a

/-! ### Reading and writing a field register -/

/-- A field register zero-extended to 16 bits (R180). -/
def DeviceState.get (d : DeviceState) : Field → Half
  | .valid => d.valid.setWidth 16
  | .temp => d.temp.setWidth 16
  | .tempUnits => d.tempUnits.setWidth 16
  | .isOn => d.isOn.setWidth 16
  | .mode => d.mode.setWidth 16
  | .fanState => d.fanState.setWidth 16
  | .fanSpeed => d.fanSpeed.setWidth 16
  | .turbo => d.turbo.setWidth 16
  | .quietType => d.quietType.setWidth 16
  | .tempDisplay => d.tempDisplay.setWidth 16
  | .light => d.light.setWidth 16
  | .purify => d.purify.setWidth 16
  | .ecoMode => d.ecoMode.setWidth 16
  | .heatAssist => d.heatAssist.setWidth 16
  | .humidifyType => d.humidifyType.setWidth 16
  | .xFan => d.xFan.setWidth 16
  | .xFanForHeat => d.xFanForHeat.setWidth 16
  | .intakeExhaust => d.intakeExhaust.setWidth 16
  | .horizontalAirDirection => d.horizontalAirDirection.setWidth 16
  | .verticalAirDirection => d.verticalAirDirection.setWidth 16
  | .sleepCurveType => d.sleepCurveType.setWidth 16
  | .customSleepCurve k => (d.customSleepCurve[k.val]).setWidth 16
  | .timerOnOffEnable => d.timerOnOffEnable.setWidth 16
  | .timerOnEnable => d.timerOnEnable.setWidth 16
  | .timerOffEnable => d.timerOffEnable.setWidth 16
  | .minutesUntilOn => d.minutesUntilOn.setWidth 16
  | .minutesUntilOff => d.minutesUntilOff.setWidth 16
  | .timerRemoteFlag => d.timerRemoteFlag.setWidth 16
  | .clock => d.clock.setWidth 16
  | .dayOfWeek => d.dayOfWeek.setWidth 16
  | .onTime => d.onTime.setWidth 16
  | .offTime => d.offTime.setWidth 16
  | .dayOfWeekOnMask => d.dayOfWeekOnMask.setWidth 16
  | .dayOfWeekOffMask => d.dayOfWeekOffMask.setWidth 16
  | .timerOnUseClock => d.timerOnUseClock.setWidth 16
  | .timerOffUseClock => d.timerOffUseClock.setWidth 16
  | .sleepCurveClock => d.sleepCurveClock
  | .sleepCurveClockInvalid => d.sleepCurveClockInvalid.setWidth 16
  | .useRemoteTempSensor => d.useRemoteTempSensor.setWidth 16
  | .remoteTempVal => d.remoteTempVal.setWidth 16
  | .noiseControlEnable => d.noiseControlEnable.setWidth 16
  | .noiseControlHeating => d.noiseControlHeating.setWidth 16
  | .noiseControlCooling => d.noiseControlCooling.setWidth 16
  | .regionalSwingPosition => d.regionalSwingPosition.setWidth 16
  | .regionalSwingAvoidPeople => d.regionalSwingAvoidPeople.setWidth 16
  | .modeMysteryBit2 => d.modeMysteryBit2.setWidth 16
  | .modeMysteryBit3 => d.modeMysteryBit3.setWidth 16
  | .pass27 => d.pass27.setWidth 16
  | .pass41 => d.pass41.setWidth 16

/-- Write a value to a field register; the register keeps the bits it has room for. -/
def DeviceState.set (d : DeviceState) : Field → Half → DeviceState
  | .valid, v => { d with valid := v.setWidth 1 }
  | .temp, v => { d with temp := v.setWidth 8 }
  | .tempUnits, v => { d with tempUnits := v.setWidth 2 }
  | .isOn, v => { d with isOn := v.setWidth 1 }
  | .mode, v => { d with mode := v.setWidth 4 }
  | .fanState, v => { d with fanState := v.setWidth 4 }
  | .fanSpeed, v => { d with fanSpeed := v.setWidth 3 }
  | .turbo, v => { d with turbo := v.setWidth 1 }
  | .quietType, v => { d with quietType := v.setWidth 2 }
  | .tempDisplay, v => { d with tempDisplay := v.setWidth 2 }
  | .light, v => { d with light := v.setWidth 1 }
  | .purify, v => { d with purify := v.setWidth 1 }
  | .ecoMode, v => { d with ecoMode := v.setWidth 1 }
  | .heatAssist, v => { d with heatAssist := v.setWidth 8 }
  | .humidifyType, v => { d with humidifyType := v.setWidth 3 }
  | .xFan, v => { d with xFan := v.setWidth 1 }
  | .xFanForHeat, v => { d with xFanForHeat := v.setWidth 1 }
  | .intakeExhaust, v => { d with intakeExhaust := v.setWidth 2 }
  | .horizontalAirDirection, v => { d with horizontalAirDirection := v.setWidth 3 }
  | .verticalAirDirection, v => { d with verticalAirDirection := v.setWidth 3 }
  | .sleepCurveType, v => { d with sleepCurveType := v.setWidth 8 }
  | .customSleepCurve k, v =>
      { d with customSleepCurve := d.customSleepCurve.set k.val (v.setWidth 8) k.isLt }
  | .timerOnOffEnable, v => { d with timerOnOffEnable := v.setWidth 1 }
  | .timerOnEnable, v => { d with timerOnEnable := v.setWidth 1 }
  | .timerOffEnable, v => { d with timerOffEnable := v.setWidth 1 }
  | .minutesUntilOn, v => { d with minutesUntilOn := v.setWidth 11 }
  | .minutesUntilOff, v => { d with minutesUntilOff := v.setWidth 11 }
  | .timerRemoteFlag, v => { d with timerRemoteFlag := v.setWidth 1 }
  | .clock, v => { d with clock := v.setWidth 15 }
  | .dayOfWeek, v => { d with dayOfWeek := v.setWidth 3 }
  | .onTime, v => { d with onTime := v.setWidth 11 }
  | .offTime, v => { d with offTime := v.setWidth 11 }
  | .dayOfWeekOnMask, v => { d with dayOfWeekOnMask := v.setWidth 8 }
  | .dayOfWeekOffMask, v => { d with dayOfWeekOffMask := v.setWidth 8 }
  | .timerOnUseClock, v => { d with timerOnUseClock := v.setWidth 2 }
  | .timerOffUseClock, v => { d with timerOffUseClock := v.setWidth 2 }
  | .sleepCurveClock, v => { d with sleepCurveClock := v }
  | .sleepCurveClockInvalid, v => { d with sleepCurveClockInvalid := v.setWidth 1 }
  | .useRemoteTempSensor, v => { d with useRemoteTempSensor := v.setWidth 1 }
  | .remoteTempVal, v => { d with remoteTempVal := v.setWidth 8 }
  | .noiseControlEnable, v => { d with noiseControlEnable := v.setWidth 1 }
  | .noiseControlHeating, v => { d with noiseControlHeating := v.setWidth 8 }
  | .noiseControlCooling, v => { d with noiseControlCooling := v.setWidth 8 }
  | .regionalSwingPosition, v => { d with regionalSwingPosition := v.setWidth 9 }
  | .regionalSwingAvoidPeople, v => { d with regionalSwingAvoidPeople := v.setWidth 1 }
  | .modeMysteryBit2, v => { d with modeMysteryBit2 := v.setWidth 1 }
  | .modeMysteryBit3, v => { d with modeMysteryBit3 := v.setWidth 1 }
  | .pass27, v => { d with pass27 := v.setWidth 8 }
  | .pass41, v => { d with pass41 := v.setWidth 8 }

/-- The values WRF accepts for a field (R24's domain column, R183): nothing for VALID, the named codes of the
enumerations, the PASS27_MASK bits for pass27, and 0 .. 2^W - 1 for a field of OPEN or of plain register width. -/
def inDomain (c : Config) (f : Field) (v : Half) : Bool :=
  match f with
  | .valid => false
  | .mode => decide (v.toNat ≤ 7)
  | .tempUnits => decide (v.toNat ≤ 1)
  | .fanState => decide (v.toNat ≤ 10) || v.toNat == 15
  | .sleepCurveType => decide (v.toNat ≤ 3) || v.toNat == 128
  | .regionalSwingPosition => decide (v.toNat ≤ 256)
  | .pass27 => v &&& ~~~(c.params.pass27Mask.setWidth 16) == 0
  | f => decide (v.toNat < 2 ^ c.params.wireWidth f)

end Sys2Proof.Machine
end

