-- ==== Sys2Proof/Machine/BufferAccess.lean ====
section
/-! DEFINITION. The buffer access commands (spec/40_buffer_access.md R130 to R139). -/

namespace Sys2Proof.Machine

/-- NOP (R130). -/
def execNop (s : State) : StepResult := succeed s 0

/-- RXCLR (R132). -/
def execRxclr (s : State) : StepResult := succeed (s.withRx Memory.zero 0) 0

/-- RXPUSH (R134). -/
def execRxpush (byte : Byte) (s : State) : StepResult :=
  if h : s.rxlen.val < bufferCap then
    succeed (s.withRx (s.rx.write s.rxlen.val byte) ⟨s.rxlen.val + 1, Nat.succ_lt_succ h⟩)
      (BitVec.ofNat 16 (s.rxlen.val + 1))
  else raise s .bufferOverflow

/-- RXRD (R135). -/
def execRxrd (index : Byte) (s : State) : StepResult :=
  if s.rxlen.val ≤ index.toNat then raise s .badOperand
  else succeed s ((s.rx.read index.toNat).setWidth 16)

/-- TXCLR (R137). -/
def execTxclr (s : State) : StepResult := succeed (s.withTx Memory.zero 0) 0

/-- TXPUT (R138). -/
def execTxput (index byte : Byte) (s : State) : StepResult :=
  if bufferCap ≤ index.toNat then raise s .badOperand
  else succeed (s.withTx (s.tx.write index.toNat byte) 0) 0

/-- TXRD (R139). -/
def execTxrd (index : Byte) (s : State) : StepResult :=
  if s.txlen.val ≤ index.toNat then raise s .badOperand
  else succeed s ((s.tx.read index.toNat).setWidth 16)

end Sys2Proof.Machine
end

