-- ==== Sys2Proof/Machine/FieldAccess.lean ====
section
/-! DEFINITION. Field-register access and soft reset (spec/42_field_access.md R180 to R186). -/

namespace Sys2Proof.Machine

/-- RDF (R180). -/
def execRdf (field : Byte) (s : State) : StepResult :=
  match fieldOfId? field with
  | none => raise s .badOperand
  | some f => succeed s (s.ds.get f)

/-- WRF (R182) under a parameter set, which bounds the OPEN-width fields and pass27 (R183). -/
def writeField (c : Config) (field : Byte) (value : Half) (s : State) : StepResult :=
  match fieldOfId? field with
  | none => raise s .badOperand
  | some f =>
      if inDomain c f value then succeed (s.withDs (s.ds.set f value)) 0 else raise s .badOperand

/-- WRF (R182). -/
def execWrf (field : Byte) (value : Half) (s : State) : StepResult :=
  writeField Config.machine field value s

/-- `reset_state()` (R186, spec/70_reset_and_hazards.md R320): every register of the block at its reset value. The
commands the host is still going to present are no register (spec/10_state.md R20) and stay (log entry 7). -/
def State.softReset (s : State) : State :=
  { State.reset with pending := s.pending, index := s.index }

/-- SRST (R186). -/
def execSrst (s : State) : StepResult := succeed s.softReset 0

end Sys2Proof.Machine
end

