-- ==== Sys2Proof/Machine/FrameLayer.lean ====
section
/-! DEFINITION. The frame layer: checksum, sync-and-length check, validate, wrap and query
(spec/41_frame_layer.md R150 to R163). -/

namespace Sys2Proof.Machine

/-- The sum of `count` bytes from index `start` on. -/
def sumBytes (m : Memory) (start : Nat) : Nat → Nat
  | 0 => 0
  | count + 1 => (m.read start).toNat + sumBytes m (start + 1) count

/-- The sum of bytes 2 .. n-2 mod 256, for a frame of n ≥ 4 bytes (R150). -/
def frameSum (m : Memory) (n : Nat) : Byte := BitVec.ofNat 8 (sumBytes m 2 (n - 3))

/-- `checksum(buf, n)` (R150): none where it fails with ShortBuffer. -/
def checksum (m : Memory) (n : Nat) : Option Byte := if n < 4 then none else some (frameSum m n)

/-- `hdr_ok(h0, h1, h2)` (R152). -/
def hdrOk (h0 h1 h2 : Byte) : Bool := h0 == sync && h1 == sync && decide (h2.toNat ≤ maxLen)

/-- The first check of VALIDATE that the n bytes of a buffer fail, in the order of R155; none if they pass. -/
def validateError (m : Memory) (n : Nat) : Option ErrCode :=
  if n < 3 then some .shortBuffer
  else if !hdrOk (m.read 0) (m.read 1) (m.read 2) then some .malformedHeader
  else if n ≠ 3 + (m.read 2).toNat then some .lengthMismatch
  else
    match checksum m n with
    | none => some .shortBuffer
    | some c => if c = m.read (n - 1) then none else some .checksumMismatch

/-- Bytes 0..3 of a frame: two sync bytes, the length byte and the type (spec/20_memory.md R66). -/
def writeHeader (t : Memory) (len type : Byte) : Memory :=
  (((t.write 0 sync).write 1 sync).write 2 len).write 3 type

/-- Byte n-1 of a frame: the checksum of the others (R150, R160, spec/44_encode.md R258). -/
def sealFrame (t : Memory) (n : Nat) : Memory := t.write (n - 1) (frameSum t n)

/-- CKSUM (R151). -/
def execCksum (s : State) : StepResult :=
  match checksum s.rx s.rxlen.val with
  | none => raise s .shortBuffer
  | some c => succeed s (c.setWidth 16)

/-- HDRCHK (R153). -/
def execHdrchk (s : State) : StepResult :=
  if s.rxlen.val < 3 then raise s .shortBuffer
  else if !hdrOk (s.rx.read 0) (s.rx.read 1) (s.rx.read 2) then raise s .malformedHeader
  else succeed s ((s.rx.read 2).setWidth 16)

/-- VALIDATE (R155): RXOK ← 0 first, and 1 only if every check passes. -/
def execValidate (s : State) : StepResult :=
  match validateError s.rx s.rxlen.val with
  | some e => raise (s.withRxok false) e
  | none => succeed (s.withRxok true) (BitVec.ofNat 16 s.rxlen.val)

/-- WRAP (R160), P = `len`. -/
def execWrap (type len : Byte) (s : State) : StepResult :=
  if h : len.toNat ≤ maxPayload then
    succeed
      (s.withTx (sealFrame (writeHeader s.tx (len + 2) type) (len.toNat + 5))
        ⟨len.toNat + 5, Nat.lt_of_le_of_lt (Nat.add_le_add_right h 5) (by decide)⟩)
      (BitVec.ofNat 16 (len.toNat + 5))
  else raise s .bufferOverflow

/-- QUERY (R163). -/
def execQuery (s : State) : StepResult :=
  succeed (s.withTx ((writeHeader s.tx 0x02#8 typeQuery).write 4 0x04#8) 5) 5

end Sys2Proof.Machine
end

