-- ==== Sys2Proof/Machine/Flags.lean ====
section
/-! DEFINITION. STATUS: the error code's number (spec/60_exceptions.md R300), the whole register as the host reads it
(spec/10_state.md R27), and the two warnings of DECODE (spec/43_decode.md R206, R214). -/

namespace Sys2Proof.Machine

/-- The number of an error code (R300). -/
def ErrCode.code : ErrCode → BitVec 4
  | .ok => 0
  | .malformedHeader => 1
  | .checksumMismatch => 2
  | .truncatedFrame => 3
  | .invalidStateForEncode => 4
  | .shortBuffer => 5
  | .lengthMismatch => 6
  | .unexpectedFrameType => 7
  | .unvalidatedFrame => 8
  | .bufferOverflow => 9
  | .badOperand => 10
  | .illegalCommand => 11

/-- STATUS (R27): RXOK in bit 7, VALID in 6, WARN_QUIET3 in 5, WARN_UNREC in 4, ERR in 3:0. RXOK and VALID mirror
`rxok` and `ds.valid` at all times. -/
def State.status (s : State) : Byte :=
  BitVec.ofBool s.rxok ++ s.ds.valid ++ BitVec.ofBool s.warnQuiet3 ++ BitVec.ofBool s.warnUnrec
    ++ s.err.code

/-- warn_unrec of a decoded snapshot (R205, R214): code 7 in one of the three fields with 7 variants, or fan_speed 6
or 7 where turbo and quiet_type leave fan_state to it. -/
def warnsUnrec (n : DeviceState) : Bool :=
  n.humidifyType == unrecognizedVariant || n.horizontalAirDirection == unrecognizedVariant
    || n.verticalAirDirection == unrecognizedVariant
    || (n.turbo == 0 && n.quietType == quietNone && decide (5 < n.fanSpeed.toNat))

/-- warn_q3 of a decoded snapshot (R206): quiet_type 3 while turbo is 0. -/
def warnsQuiet3 (n : DeviceState) : Bool := n.turbo == 0 && n.quietType == quietReserved

end Sys2Proof.Machine
end

