-- ==== Sys2Proof/Machine/Temperature.lean ====
section
/-! DEFINITION. The temperature codec (spec/45_temperature.md R280 to R286). Temperatures are in half degrees (t2,
spec/10_state.md R25); units are 0 = C, 1 = F. -/

namespace Sys2Proof.Machine

/-- `decode_temp(units, u, lo, h)` (R280). -/
def decodeTemp (units u lo h : Nat) : Nat :=
  if units = 1 then if u = 0 then 122 else 2 * min ((9 * u + 304) / 5 + lo) 86
  else 2 * min (u + 16) 30 + h

/-- The literal set ODD_F (R282; spec/90_conflicts.md C17). -/
def oddF : List Nat := [63, 65, 67, 70, 72, 74, 76, 79, 81, 83, 85]

/-- `clamp(v, lo, hi)` (spec/00_scope.md R7). -/
def clamp (v lo hi : Int) : Int := min (max v lo) hi

/-- The wire bits of a temperature. -/
structure TempBits where
  u : Nat
  lo : Nat
  h : Nat
  deriving DecidableEq, Repr

/-- `encode_temp(units, t2)` (R282). `Int` division by a positive number is the floor. -/
def encodeTemp (units t2 : Nat) : TempBits :=
  if units = 1 then
    { u := (clamp ((5 * (t2 : Int) - 599) / 18) 0 14).toNat
      lo := if t2 % 2 = 0 ∧ oddF.contains (t2 / 2) then 1 else 0
      h := 0 }
  else
    { u := (clamp ((t2 / 2 : Nat) - 16) 0 14).toNat
      lo := 0
      h := t2 % 2 }

/-- TENC's RESULT and TDEC's B: u in bits 3:0, lo in bit 4, h in bit 5 (R284, R286). -/
def TempBits.pack (b : TempBits) : Nat := b.u ||| b.lo <<< 4 ||| b.h <<< 5

/-- TDEC (R284). -/
def execTdec (units : BitVec 1) (upper : BitVec 4) (lo h : BitVec 1) (s : State) : StepResult :=
  succeed s (BitVec.ofNat 16 (decodeTemp units.toNat upper.toNat lo.toNat h.toNat))

/-- TENC (R286). -/
def execTenc (units : BitVec 1) (t2 : Byte) (s : State) : StepResult :=
  succeed s (BitVec.ofNat 16 (encodeTemp units.toNat t2.toNat).pack)

end Sys2Proof.Machine
end

