-- ==== Sys2Proof/Machine/SnapshotDecode.lean ====
section
/-! DEFINITION. DECODE, the bit-field extractor (spec/43_decode.md R200 to R216). Each part writes the pending snapshot
`n` from the frame `f`; the parameter set `c` places the fields whose position the spec leaves OPEN. -/

namespace Sys2Proof.Machine

/-- Power and mode (R202). -/
def decodeMode (f : Memory) (n : DeviceState) : DeviceState :=
  { n with
    isOn := BitVec.ofNat 1 (extract f Wire.isOn)
    mode := BitVec.ofNat 4 (extract f Wire.mode) }

/-- Temperature (R203). -/
def decodeTemperature (f : Memory) (n : DeviceState) : DeviceState :=
  let units := extract f Wire.tempUnits
  { n with
    tempUnits := BitVec.ofNat 2 units
    temp := BitVec.ofNat 8
      (decodeTemp units (extract f Wire.tempUpper) (extract f Wire.tempLower)
        (extract f Wire.tempHalf)) }

/-- X-Fan (R204): one bit, selected by the mode just decoded; other modes leave both registers. -/
def decodeXFan (f : Memory) (n : DeviceState) : DeviceState :=
  let bit := BitVec.ofNat 1 (extract f Wire.xFan)
  if n.mode = modeCool ∨ n.mode = modeDry then { n with xFan := bit, xFanForHeat := 0 }
  else if n.mode = modeHeat then { n with xFanForHeat := bit, xFan := 0 }
  else n

/-- The unified fan_state of the three fan components (R205, R206). -/
def fanStateOf (turbo : BitVec 1) (quietType : BitVec 2) (fanSpeed : BitVec 3) : BitVec 4 :=
  if turbo = 1 then fanTurbo
  else if quietType = quietAuto then fanAutoQuiet
  else if quietType = quietQuiet then fanQuiet
  else if quietType = quietReserved then fanNone
  else if fanSpeed.toNat ≤ 5 then fanSpeed.setWidth 4
  else fanUnknown

/-- Fan components and fan_state (R205, R206). -/
def decodeFan (f : Memory) (n : DeviceState) : DeviceState :=
  let turbo := BitVec.ofNat 1 (extract f Wire.turbo)
  let quietType := BitVec.ofNat 2 (extract f Wire.quietType)
  let fanSpeed := BitVec.ofNat 3 (extract f Wire.fanSpeed)
  { n with
    turbo := turbo
    quietType := quietType
    fanSpeed := fanSpeed
    fanState := fanStateOf turbo quietType fanSpeed }

/-- Sleep curve (R207): the SIESTA bit, else the 2-bit index of spec/20_memory.md R74. -/
def decodeSleep (c : Config) (f : Memory) (n : DeviceState) : DeviceState :=
  { n with
    sleepCurveType :=
      if extract f Wire.siesta = 1 then sleepSiesta
      else BitVec.ofNat 8 (extract f c.params.sleepIndex) }

/-- The split field minutes_until_on (R208). -/
def decodeMinutesUntilOn (f : Memory) (n : DeviceState) : DeviceState :=
  { n with minutesUntilOn := BitVec.ofNat 11 (extract f Wire.minutesUntilOn) }

/-- Regional swing (R209): the spill bit gives 256 whatever the position byte holds. -/
def decodeSwing (c : Config) (f : Memory) (n : DeviceState) : DeviceState :=
  { n with
    regionalSwingPosition :=
      if extract f c.params.swingSpill = 1 then swingOverflow
      else BitVec.ofNat 9 (extract f c.params.swingPosition) }

/-- Every field of a list, extracted from its FIELD_MAP position. -/
def decodeFields (c : Config) (f : Memory) : List Field → DeviceState → DeviceState
  | [], n => n
  | g :: rest, n =>
      decodeFields c f rest (n.set g (BitVec.ofNat 16 (extract f (c.fieldMap g))))

/-- The FIELD_MAP fields (R210), as their raw wire codes. -/
def decodeMappedFields (c : Config) (f : Memory) (n : DeviceState) : DeviceState :=
  decodeFields c f Field.mapped n

/-- Pass-through (R211). -/
def decodePassthrough (c : Config) (f : Memory) (n : DeviceState) : DeviceState :=
  { n with
    pass27 := f.read Wire.pass27Byte &&& c.params.pass27Mask
    pass41 := f.read Wire.pass41Byte }

/-- The whole new snapshot of a frame (R200, R212). -/
def decodeSnapshot (c : Config) (f : Memory) (d : DeviceState) : DeviceState :=
  let n := decodeMode f d
  let n := decodeTemperature f n
  let n := decodeXFan f n
  let n := decodeFan f n
  let n := decodeSleep c f n
  let n := decodeMinutesUntilOn f n
  let n := decodeSwing c f n
  let n := decodeMappedFields c f n
  let n := decodePassthrough c f n
  { n with valid := 1 }

/-- The first precondition of DECODE that fails, in the order of R201; none if all hold. -/
def decodeError (s : State) : Option ErrCode :=
  if !s.rxok then some .unvalidatedFrame
  else if s.rxlen.val < minStatusLen then some .truncatedFrame
  else if s.rx.read 3 ≠ typeStatusA ∧ s.rx.read 3 ≠ typeStatusB then some .unexpectedFrameType
  else none

/-- DECODE (R200) under a parameter set: all writes take effect at once (R212). -/
def decodeFrame (c : Config) (s : State) : StepResult :=
  match decodeError s with
  | some e => raise s e
  | none =>
      let n := decodeSnapshot c s.rx s.ds
      succeed ((s.withDs n).withWarnings (warnsUnrec n) (warnsQuiet3 n)) 0

/-- DECODE (R200). -/
def execDecode (s : State) : StepResult := decodeFrame Config.machine s

end Sys2Proof.Machine
end

