-- ==== Sys2Proof/Machine/SnapshotEncode.lean ====
section
/-! DEFINITION. ENCODE and ENCRT, the normaliser and bit-field packer (spec/44_encode.md R240 to R262). `s` below is the
scratch copy S (R242), `t` the frame T under construction; the parameter set `c` places the fields whose position the spec
leaves OPEN. -/

namespace Sys2Proof.Machine

/-! ### Normalisation, steps 1 to 3 -/

/-- Step 1 (R243): a device commanded off has a cluster of fields cleared. -/
def normaliseOff (s : DeviceState) : DeviceState :=
  if s.isOn = 0 then
    { s with
      intakeExhaust := airNone
      quietType := quietNone
      sleepCurveType := sleepNone
      humidifyType := humidifyNone
      purify := 0 }
  else s

/-- Step 2 (R244, R245): a present fan_state overrides the raw components its line names; an absent one (and a code with
no line) changes nothing. -/
def applyFanState (s : DeviceState) : DeviceState :=
  if s.fanState = fanTurbo then { s with turbo := 1 }
  else if s.fanState = fanAutoQuiet then { s with quietType := quietAuto }
  else if s.fanState = fanQuiet then { s with quietType := quietQuiet }
  else if s.fanState.toNat ≤ 5 then
    { s with fanSpeed := s.fanState.setWidth 3, turbo := 0, quietType := quietNone }
  else s

/-- The step function of the noise threshold (R247). -/
def noiseSpeed (d : Nat) : Nat :=
  if 38 ≤ d then 5
  else if 36 ≤ d then 4
  else if 33 ≤ d then 3
  else if 31 ≤ d then 2
  else if 29 ≤ d then 1
  else 0

/-- Step 3 (R246): noise control sets fan_speed for heat and cool, and clears turbo. -/
def applyNoiseControl (s : DeviceState) : DeviceState :=
  if s.noiseControlEnable = 1 then
    if s.mode = modeHeat then
      { s with fanSpeed := BitVec.ofNat 3 (noiseSpeed s.noiseControlHeating.toNat), turbo := 0 }
    else if s.mode = modeCool then
      { s with fanSpeed := BitVec.ofNat 3 (noiseSpeed s.noiseControlCooling.toNat), turbo := 0 }
    else s
  else s

/-- Steps 1, 2, 3 in the fixed order (R248). -/
def normalise (s : DeviceState) : DeviceState := applyNoiseControl (applyFanState (normaliseOff s))

/-! ### Packing, steps 4 and 5 -/

/-- Frame initialisation (R250). -/
def packInit : Memory := writeHeader Memory.zero 0x25#8 typeCommand

/-- The intent byte (R254). -/
def intentByte (c : Config) (latch remote : BitVec 1) : Byte :=
  c.params.intentBase ||| (latch.setWidth 8 <<< 1) ||| (remote.setWidth 8 <<< 6)

/-- Power and mode (R251). -/
def packMode (s : DeviceState) (t : Memory) : Memory :=
  let t := insertBits t Wire.isOn s.isOn.toNat
  insertBits t Wire.mode (s.mode.toNat % 8)

/-- Temperature (R252). The unit is bit 0 of temp_units, the bit the frame carries; every valid snapshot holds 0 or 1
there (log entry 5). -/
def packTemperature (s : DeviceState) (t : Memory) : Memory :=
  let units := s.tempUnits.toNat % 2
  let bits := encodeTemp units s.temp.toNat
  let t := insertBits t Wire.tempUpper bits.u
  let t := insertBits t Wire.tempUnits units
  let t := insertBits t Wire.tempLower bits.lo
  insertBits t Wire.tempHalf bits.h

/-- The mode-gated value of the X-Fan bit (R253). -/
def xFanBit (s : DeviceState) : BitVec 1 :=
  if s.mode = modeCool ∨ s.mode = modeDry then s.xFan
  else if s.mode = modeHeat then s.xFanForHeat
  else 0

/-- X-Fan (R253). -/
def packXFan (s : DeviceState) (t : Memory) : Memory := insertBits t Wire.xFan (xFanBit s).toNat

/-- Fan components (R255). -/
def packFan (s : DeviceState) (t : Memory) : Memory :=
  let t := insertBits t Wire.turbo s.turbo.toNat
  let t := insertBits t Wire.quietType s.quietType.toNat
  insertBits t Wire.fanSpeed s.fanSpeed.toNat

/-- Sleep curve (R255): SIESTA is the sentinel bit with both index bits left 0. -/
def packSleep (c : Config) (s : DeviceState) (t : Memory) : Memory :=
  if s.sleepCurveType = sleepSiesta then insertBits t Wire.siesta 1
  else insertBits (insertBits t Wire.siesta 0) c.params.sleepIndex (s.sleepCurveType.toNat % 4)

/-- The split field minutes_until_on (R255). -/
def packMinutesUntilOn (s : DeviceState) (t : Memory) : Memory :=
  insertBits t Wire.minutesUntilOn s.minutesUntilOn.toNat

/-- Regional swing (R257): 256 is written as position 0 with the spill bit set. -/
def packSwing (c : Config) (s : DeviceState) (t : Memory) : Memory :=
  if s.regionalSwingPosition = swingOverflow then
    insertBits (insertBits t c.params.swingPosition 0) c.params.swingSpill 1
  else
    insertBits (insertBits t c.params.swingPosition (s.regionalSwingPosition.toNat % 256))
      c.params.swingSpill 0

/-- The value a FIELD_MAP field is packed with: heat_assist only in heat mode (R256), every other field as it stands
(R259). -/
def packedValue (s : DeviceState) (g : Field) : Nat :=
  if g = .heatAssist ∧ s.mode ≠ modeHeat then 0 else (s.get g).toNat

/-- Every field of a list, packed at its FIELD_MAP position (R256, R259). -/
def packFields (c : Config) (s : DeviceState) : List Field → Memory → Memory
  | [], t => t
  | g :: rest, t => packFields c s rest (insertBits t (c.fieldMap g) (packedValue s g))

/-- Pass-through (R259): the PASS27_MASK bits of byte 27; pass41 is not emitted. -/
def packPassthrough (c : Config) (s : DeviceState) (t : Memory) : Memory :=
  t.write Wire.pass27Byte (t.read Wire.pass27Byte ||| (s.pass27 &&& c.params.pass27Mask))

/-- The frame of a normalised snapshot, but for its checksum (R250 to R257, R259). -/
def pack (c : Config) (s : DeviceState) (latch : BitVec 1) : Memory :=
  let t := packInit
  let t := t.write Wire.intentByte (intentByte c latch s.useRemoteTempSensor)
  let t := packMode s t
  let t := packTemperature s t
  let t := packXFan s t
  let t := packFan s t
  let t := packSleep c s t
  let t := packMinutesUntilOn s t
  let t := packSwing c s t
  let t := packFields c s Field.mapped t
  packPassthrough c s t

/-- The command frame of a snapshot: copied, normalised, packed and checksummed (R240, R242, R258). -/
def commandFrame (c : Config) (d : DeviceState) (latch : BitVec 1) : Memory :=
  sealFrame (pack c (normalise d) latch) cmdFrameLen

/-- The remote-temperature update frame (R260, R261). -/
def remoteTempFrame (c : Config) (d : DeviceState) : Memory :=
  let t := packInit.write Wire.intentByte (c.params.intentBase ||| 0x40#8)
  let t := insertBits t (c.fieldMap .remoteTempVal) d.remoteTempVal.toNat
  sealFrame t cmdFrameLen

/-- The precondition and commit ENCODE and ENCRT share (R241, R258, R262): TX is written only once the whole frame is
assembled, and a refused encode leaves no frame to send. -/
def emitFrame (s : State) (frame : Memory) : StepResult :=
  if s.ds.valid = 0 then raise (s.withTxlen 0) .invalidStateForEncode
  else succeed (s.withTx frame 40) 40

/-- ENCODE (R240). -/
def execEncode (latch : BitVec 1) (s : State) : StepResult :=
  emitFrame s (commandFrame Config.machine s.ds latch)

/-- ENCRT (R260). -/
def execEncrt (s : State) : StepResult := emitFrame s (remoteTempFrame Config.machine s.ds)

end Sys2Proof.Machine
end

