-- ==== Sys2Proof/Machine/Dispatch.lean ====
section
/-! DEFINITION. What each command does: one arm per constructor of `Instr`. -/

namespace Sys2Proof.Machine

def exec (i : Instr) (s : State) : Host.Outcome State Fault Refusal :=
  match i with
  | .nop => Sys2Proof.Machine.execNop s
  | .rxclr => Sys2Proof.Machine.execRxclr s
  | .rxpush byte => Sys2Proof.Machine.execRxpush byte s
  | .rxrd index => Sys2Proof.Machine.execRxrd index s
  | .txclr => Sys2Proof.Machine.execTxclr s
  | .txput index byte => Sys2Proof.Machine.execTxput index byte s
  | .txrd index => Sys2Proof.Machine.execTxrd index s
  | .cksum => Sys2Proof.Machine.execCksum s
  | .hdrchk => Sys2Proof.Machine.execHdrchk s
  | .validate => Sys2Proof.Machine.execValidate s
  | .wrap type len => Sys2Proof.Machine.execWrap type len s
  | .query => Sys2Proof.Machine.execQuery s
  | .decode => Sys2Proof.Machine.execDecode s
  | .encode latch => Sys2Proof.Machine.execEncode latch s
  | .encrt => Sys2Proof.Machine.execEncrt s
  | .rdf field => Sys2Proof.Machine.execRdf field s
  | .wrf field value => Sys2Proof.Machine.execWrf field value s
  | .tdec units upper lo h => Sys2Proof.Machine.execTdec units upper lo h s
  | .tenc units t2 => Sys2Proof.Machine.execTenc units t2 s
  | .srst => Sys2Proof.Machine.execSrst s

end Sys2Proof.Machine
end

