-- ==== Sys2Proof/Machine/Step.lean ====
section
/-! DEFINITION. One step of the machine: the command the host presents next, as one atomic step
(spec/00_scope.md R8, R10, spec/20_memory.md R90). -/

namespace Sys2Proof.Machine

/-- Take the next command word and run it. A word that is no command raises IllegalCommand before any operand is looked
at (spec/60_exceptions.md R305). With no command presented, nothing happens (log entry 1). -/
def step (s : State) : Host.Outcome State Fault Refusal :=
  match fetch s with
  | none => idle s
  | some (w, s') =>
      match decode w with
      | .ok i => exec i s'
      | .error _ => execIllegal s'

/-- `s` with that command word presented next; bits at and above `nbits` are 0 (log entry 3). -/
def State.withFetchWord (s : State) (nbits w : Nat) : State :=
  present s (BitVec.ofNat 32 (w % 2 ^ nbits))

end Sys2Proof.Machine
end

