-- ==== Sys2Proof/Machine/Assembler.lean ====
section
/-! DEFINITION. Assembler syntax and pseudo-instructions (spec/30_encoding.md R105, R106). The block sees only the words
they stand for. -/

namespace Sys2Proof.Machine

/-! ### Pseudo-instructions (R106) -/

/-- `ENCODE` without operand: the timer latch defaults to true. -/
def pseudoEncode : List Instr := [.encode 1]

/-- `LOADRX b0, …, bk`: load a whole frame. -/
def pseudoLoadrx (bytes : List Byte) : List Instr := .rxclr :: bytes.map Instr.rxpush

/-- `RECV b0, …, bk`: the receive flow. -/
def pseudoRecv (bytes : List Byte) : List Instr := pseudoLoadrx bytes ++ [.validate, .decode]

/-- `TXPUT i, p0; TXPUT i+1, p1; …`. -/
def stagePayload : Nat → List Byte → List Instr
  | _, [] => []
  | i, p :: rest => .txput (BitVec.ofNat 8 i) p :: stagePayload (i + 1) rest

/-- `SEND type, p0, …, pk`: wrap an arbitrary payload. -/
def pseudoSend (type : Byte) (payload : List Byte) : List Instr :=
  .txclr :: stagePayload 4 payload ++ [.wrap type (BitVec.ofNat 8 payload.length)]

/-! ### Operands (R105) -/

/-- The name of a field register in R24's table. -/
def fieldName : Field → String
  | .valid => "valid" | .temp => "temp" | .tempUnits => "temp_units" | .isOn => "is_on"
  | .mode => "mode" | .fanState => "fan_state" | .fanSpeed => "fan_speed" | .turbo => "turbo"
  | .quietType => "quiet_type" | .tempDisplay => "temp_display" | .light => "light"
  | .purify => "purify" | .ecoMode => "eco_mode" | .heatAssist => "heat_assist"
  | .humidifyType => "humidify_type" | .xFan => "x_fan" | .xFanForHeat => "x_fan_for_heat"
  | .intakeExhaust => "intake_exhaust" | .horizontalAirDirection => "horizontal_air_direction"
  | .verticalAirDirection => "vertical_air_direction" | .sleepCurveType => "sleep_curve_type"
  | .customSleepCurve k => "custom_sleep_curve[" ++ toString k.val ++ "]"
  | .timerOnOffEnable => "timer_on_off_enable" | .timerOnEnable => "timer_on_enable"
  | .timerOffEnable => "timer_off_enable" | .minutesUntilOn => "minutes_until_on"
  | .minutesUntilOff => "minutes_until_off" | .timerRemoteFlag => "timer_remote_flag"
  | .clock => "clock" | .dayOfWeek => "day_of_week" | .onTime => "on_time"
  | .offTime => "off_time" | .dayOfWeekOnMask => "day_of_week_on_mask"
  | .dayOfWeekOffMask => "day_of_week_off_mask" | .timerOnUseClock => "timer_on_use_clock"
  | .timerOffUseClock => "timer_off_use_clock" | .sleepCurveClock => "sleep_curve_clock"
  | .sleepCurveClockInvalid => "sleep_curve_clock_invalid"
  | .useRemoteTempSensor => "use_remote_temp_sensor" | .remoteTempVal => "remote_temp_val"
  | .noiseControlEnable => "noise_control_enable"
  | .noiseControlHeating => "noise_control_heating"
  | .noiseControlCooling => "noise_control_cooling"
  | .regionalSwingPosition => "regional_swing_position"
  | .regionalSwingAvoidPeople => "regional_swing_avoid_people"
  | .modeMysteryBit2 => "mode_mystery_bit_2" | .modeMysteryBit3 => "mode_mystery_bit_3"
  | .pass27 => "pass27" | .pass41 => "pass41"

/-- The value of a digit in a base up to 16. -/
def digitValue (base : Nat) (c : Char) : Option Nat :=
  let n := c.toNat
  let v :=
    if 48 ≤ n ∧ n ≤ 57 then n - 48
    else if 97 ≤ n ∧ n ≤ 102 then n - 87
    else if 65 ≤ n ∧ n ≤ 70 then n - 55
    else 16
  if v < base then some v else none

/-- The number a nonempty digit list stands for. -/
def digitsValue (base : Nat) (acc : Nat) : List Char → Option Nat
  | [] => none
  | [c] => (digitValue base c).map fun d => acc * base + d
  | c :: rest =>
      match digitValue base c with
      | none => none
      | some d => digitsValue base (acc * base + d) rest

/-- A decimal or 0x hexadecimal number. -/
def parseNumber : List Char → Option Nat
  | '0' :: 'x' :: ds => digitsValue 16 0 ds
  | ds => digitsValue 10 0 ds

/-- A number below a bound; the bound is the room the operand has in the word (log entry 8). -/
def parseBelow (bound : Nat) (cs : List Char) : Option Nat :=
  match parseNumber cs with
  | some n => if n < bound then some n else none
  | none => none

/-- An 8-bit operand. -/
def parseByte (cs : List Char) : Option Byte := (parseBelow 256 cs).map fun n => BitVec.ofNat 8 n

/-- A 16-bit operand. -/
def parseHalf (cs : List Char) : Option Half := (parseBelow 65536 cs).map fun n => BitVec.ofNat 16 n

/-- `field`: a field id or a field's name. -/
def parseField (cs : List Char) : Option Byte :=
  match Field.all.find? fun f => (fieldName f).toList == cs with
  | some f => some f.id
  | none => parseByte cs

/-- `units`: C (0), F (1) or a number. -/
def parseUnits (cs : List Char) : Option Byte :=
  if cs = ['C'] then some 0 else if cs = ['F'] then some 1 else parseByte cs

/-- Every operand of a list as a byte. -/
def parseBytes : List (List Char) → Option (List Byte)
  | [] => some []
  | cs :: rest =>
      match parseByte cs, parseBytes rest with
      | some b, some bs => some (b :: bs)
      | _, _ => none

/-! ### Lines (R105) -/

/-- A list of characters without the spaces at its ends. -/
def trimSpaces (cs : List Char) : List Char :=
  ((cs.dropWhile (· == ' ')).reverse.dropWhile (· == ' ')).reverse

/-- Split at commas and trim each part. -/
def splitOperands (cs : List Char) : List (List Char) :=
  if trimSpaces cs = [] then [] else (cs.splitOn ',').map trimSpaces

/-- The OP of a command without operands. -/
def plainOp (mnemonic : List Char) : Option Byte :=
  [("NOP", 0x00#8), ("RXCLR", 0x01#8), ("TXCLR", 0x04#8), ("CKSUM", 0x10#8), ("HDRCHK", 0x11#8),
    ("VALIDATE", 0x12#8), ("QUERY", 0x14#8), ("DECODE", 0x20#8), ("ENCRT", 0x22#8),
    ("SRST", 0xF0#8)].findSome? fun e => if e.1.toList = mnemonic then some e.2 else none

/-- The OP of a form with an operand A only, and how that operand is written. -/
def formA (mnemonic : List Char) : Option (Byte × (List Char → Option Byte)) :=
  [("RXRD", 0x03#8, parseByte), ("TXRD", 0x06#8, parseByte), ("RDF", 0x30#8, parseField),
    ("ENCODE", 0x21#8, parseByte)].findSome? fun e =>
      if e.1.toList = mnemonic then some e.2 else none

/-- The OP of a form with operands A and B, and how they are written. -/
def formAB (mnemonic : List Char) :
    Option (Byte × (List Char → Option Byte) × (List Char → Option Half)) :=
  let byteB := fun cs => (parseByte cs).map fun b => b.setWidth 16
  [("TXPUT", 0x05#8, parseByte, byteB), ("WRAP", 0x13#8, parseByte, byteB),
    ("WRF", 0x31#8, parseField, parseHalf), ("TDEC", 0x40#8, parseUnits, parseHalf),
    ("TENC", 0x41#8, parseUnits, byteB)].findSome? fun e =>
      if e.1.toList = mnemonic then some e.2 else none

/-- The words of a pseudo-instruction (R106). -/
def assemblePseudo (mnemonic : List Char) (operands : List (List Char)) : Option (List Word) :=
  let words := List.map encode
  if mnemonic = "ENCODE".toList ∧ operands = [] then some (words pseudoEncode)
  else
    match parseBytes operands with
    | some (b :: bs) =>
        if mnemonic = "LOADRX".toList then some (words (pseudoLoadrx (b :: bs)))
        else if mnemonic = "RECV".toList then some (words (pseudoRecv (b :: bs)))
        else if mnemonic = "SEND".toList ∧ bs ≠ [] ∧ bs.length ≤ 252 then some (words (pseudoSend b bs))
        else none
    | _ => none

/-- The words of a mnemonic and its operands, if they are a form of R105 or R106. Unused operand bits are 0. -/
def assemble (mnemonic : List Char) (operands : List (List Char)) : Option (List Word) :=
  match operands with
  | [] =>
      match plainOp mnemonic with
      | some op => some [cmdWord op 0 0]
      | none => assemblePseudo mnemonic []
  | [x] =>
      match formA mnemonic with
      | some (op, parse) => (parse x).map fun a => [cmdWord op a 0]
      | none =>
          if mnemonic = "RXPUSH".toList then
            (parseByte x).map fun b => [cmdWord 0x02 0 (b.setWidth 16)]
          else assemblePseudo mnemonic [x]
  | [x, y] =>
      match formAB mnemonic with
      | some (op, parseA, parseB) =>
          match parseA x, parseB y with
          | some a, some b => some [cmdWord op a b]
          | _, _ => none
      | none => assemblePseudo mnemonic [x, y]
  | xs => assemblePseudo mnemonic xs

/-- One line of assembler text: `MNEMONIC [operand (, operand)*]` (R105). -/
def assembleLine (line : String) : Option (List Word) :=
  let cs := trimSpaces line.toList
  assemble (cs.takeWhile (· != ' ')) (splitOperands (cs.dropWhile (· != ' ')))

end Sys2Proof.Machine
end

