-- ==== Sys2Proof/Safety.lean ====
section
/-! DEFINITION. What claims are stated in: a frame that satisfies the wire format, a snapshot each of whose registers holds
a value of its domain, the invariant of the block, and running a sequence of commands. The checksum here is the spec's own
sum, not the machine's. -/

namespace Sys2Proof.Machine

/-- The sum of frame bytes 2 ≤ i < n-1 mod 256 (spec/41_frame_layer.md R150, spec/00_scope.md R7's half-open range). -/
def byteSum (m : Memory) (n : Nat) : Nat := (∑ i ∈ Finset.Ico 2 (n - 1), (m.read i).toNat) % 256

/-- n bytes of a buffer form a frame (spec/20_memory.md R66 with the bound of R152 and the minimum of R150). -/
structure WellFramed (m : Memory) (n : Nat) : Prop where
  sync0 : m.read 0 = 0x7E#8
  sync1 : m.read 1 = 0x7E#8
  bound : (m.read 2).toNat ≤ 60
  length : n = 3 + (m.read 2).toNat
  enough : 4 ≤ n
  sum : (m.read (n - 1)).toNat = byteSum m n

/-- Every register of a snapshot holds a value of its domain (spec/10_state.md R24, spec/42_field_access.md R183). mode and
temp_units hold their UNKNOWN code at most until the snapshot is valid. -/
structure SnapshotLegal (c : Config) (d : DeviceState) : Prop where
  mode : d.mode.toNat ≤ 8
  tempUnits : d.tempUnits.toNat ≤ 2
  wire : d.valid = 1 → d.mode.toNat ≤ 7 ∧ d.tempUnits.toNat ≤ 1
  others : ∀ f : Field, f ≠ .valid → f ≠ .mode → f ≠ .tempUnits → inDomain c f (d.get f) = true

/-- The invariant of the block: canonical buffers, nothing in RX beyond RXLEN, RXOK only over a well-formed frame
(spec/10_state.md R29), a transmit frame that is well formed whenever one is offered (spec/41_frame_layer.md R161), and a
legal snapshot. -/
structure State.Inv (s : State) : Prop where
  rxWf : s.rx.wf = true
  txWf : s.tx.wf = true
  rxBeyond : ∀ a, s.rxlen.val ≤ a → s.rx.read a = 0#8
  rxValidated : s.rxok = true → WellFramed s.rx s.rxlen.val
  txFrame : s.txlen.val ≠ 0 → WellFramed s.tx s.txlen.val
  snapshot : SnapshotLegal Config.machine s.ds

/-- DECODE's preconditions (spec/43_decode.md R201). -/
structure DecodeReady (s : State) : Prop where
  validated : s.rxok = true
  long : 51 ≤ s.rxlen.val
  type : s.rx.read 3 = 0x31#8 ∨ s.rx.read 3 = 0x32#8

/-- The bytes of a frame held in a buffer. -/
def frameBytes (m : Memory) (n : Nat) : List Byte := (List.range n).map m.read

/-- Run commands one after another (spec/20_memory.md R90). -/
def runAll : List Instr → State → Host.Outcome State Fault Refusal
  | [], s => .next s
  | i :: rest, s =>
      match exec i s with
      | .next t => runAll rest t
      | .fault r => .fault r
      | .refused r => .refused r

end Sys2Proof.Machine
end

