-- ==== Sys2Proof/Certificates/Slice0/Obligations.lean ====
section
/-! DEFINITION. The statements for the provers. A statement about a next state t that says `t = { s with … }` says, for every
register not named there, that it keeps its value: that is its frame. Memory contents are said through `Memory.read`, one
byte at a time, for every index. `Config.machine` is an opaque legal parameter set, so a statement that names it is about
every legal set (log entry 4). -/

namespace Sys2Proof.Machine

/-- The 236 illegal OP values, in the ranges of spec/30_encoding.md R103. -/
def IllegalOp (op : Nat) : Prop :=
  (0x07 ≤ op ∧ op ≤ 0x0F) ∨ (0x15 ≤ op ∧ op ≤ 0x1F) ∨ (0x23 ≤ op ∧ op ≤ 0x2F) ∨ (0x32 ≤ op ∧ op ≤ 0x3F)
    ∨ (0x42 ≤ op ∧ op ≤ 0xEF) ∨ (0xF1 ≤ op ∧ op ≤ 0xFF)

/-- The reset values of the field registers (spec/70_reset_and_hazards.md R320). -/
def resetValue (f : Field) : Nat :=
  if f = .mode then 8 else if f = .tempUnits then 2 else if f = .fanState then 15 else 0

/-- The field ids of spec/10_state.md R24's table beside the value of the register each names. -/
def fieldTable (d : DeviceState) : List (Byte × Nat) :=
  [(0x00#8, d.valid.toNat), (0x01#8, d.temp.toNat), (0x02#8, d.tempUnits.toNat),
   (0x03#8, d.isOn.toNat), (0x04#8, d.mode.toNat), (0x05#8, d.fanState.toNat),
   (0x06#8, d.fanSpeed.toNat), (0x07#8, d.turbo.toNat), (0x08#8, d.quietType.toNat),
   (0x09#8, d.tempDisplay.toNat), (0x0A#8, d.light.toNat), (0x0B#8, d.purify.toNat),
   (0x0C#8, d.ecoMode.toNat), (0x0D#8, d.heatAssist.toNat)]
  ++ [(0x0E#8, d.humidifyType.toNat), (0x0F#8, d.xFan.toNat), (0x10#8, d.xFanForHeat.toNat),
   (0x11#8, d.intakeExhaust.toNat), (0x12#8, d.horizontalAirDirection.toNat),
   (0x13#8, d.verticalAirDirection.toNat), (0x14#8, d.sleepCurveType.toNat),
   (0x15#8, d.customSleepCurve[0].toNat), (0x16#8, d.customSleepCurve[1].toNat),
   (0x17#8, d.customSleepCurve[2].toNat), (0x18#8, d.customSleepCurve[3].toNat),
   (0x19#8, d.customSleepCurve[4].toNat), (0x1A#8, d.customSleepCurve[5].toNat),
   (0x1B#8, d.customSleepCurve[6].toNat)]
  ++ [(0x1C#8, d.customSleepCurve[7].toNat), (0x1D#8, d.timerOnOffEnable.toNat),
   (0x1E#8, d.timerOnEnable.toNat), (0x1F#8, d.timerOffEnable.toNat),
   (0x20#8, d.minutesUntilOn.toNat), (0x21#8, d.minutesUntilOff.toNat),
   (0x22#8, d.timerRemoteFlag.toNat), (0x23#8, d.clock.toNat), (0x24#8, d.dayOfWeek.toNat),
   (0x25#8, d.onTime.toNat), (0x26#8, d.offTime.toNat), (0x27#8, d.dayOfWeekOnMask.toNat),
   (0x28#8, d.dayOfWeekOffMask.toNat), (0x29#8, d.timerOnUseClock.toNat)]
  ++ [(0x2A#8, d.timerOffUseClock.toNat), (0x2B#8, d.sleepCurveClock.toNat),
   (0x2C#8, d.sleepCurveClockInvalid.toNat), (0x2D#8, d.useRemoteTempSensor.toNat),
   (0x2E#8, d.remoteTempVal.toNat), (0x2F#8, d.noiseControlEnable.toNat),
   (0x30#8, d.noiseControlHeating.toNat), (0x31#8, d.noiseControlCooling.toNat),
   (0x32#8, d.regionalSwingPosition.toNat), (0x33#8, d.regionalSwingAvoidPeople.toNat),
   (0x34#8, d.modeMysteryBit2.toNat), (0x35#8, d.modeMysteryBit3.toNat), (0x36#8, d.pass27.toNat),
   (0x37#8, d.pass41.toNat)]

/-- The unified fan_state of three wire values, by the priority of spec/43_decode.md R205, R206. -/
def fanPriority (turbo quiet speed : Nat) : Nat :=
  if turbo = 1 then 6
  else if quiet = 1 then 8
  else if quiet = 2 then 7
  else if quiet = 3 then 15
  else if speed ≤ 5 then speed
  else 10

/-- The noise step function as the source words it, "highest matching threshold wins" (spec/44_encode.md R247). -/
def noiseLevel (d : Nat) : Nat :=
  match [(38, 5), (36, 4), (33, 3), (31, 2), (29, 1)].find? fun e => decide (e.1 ≤ d) with
  | some e => e.2
  | none => 0

/-- Fan values of a command frame. -/
structure FanBits where
  turbo : Nat
  quiet : Nat
  speed : Nat

/-- The fan components after step 1 (spec/44_encode.md R243). -/
def fanStep1 (d : DeviceState) : FanBits :=
  ⟨d.turbo.toNat, if d.isOn = 0 then 0 else d.quietType.toNat, d.fanSpeed.toNat⟩

/-- The fan components after step 2 (R244, R245). -/
def fanStep2 (d : DeviceState) : FanBits :=
  let b := fanStep1 d
  match d.fanState.toNat with
  | 6 => ⟨1, b.quiet, b.speed⟩
  | 8 => ⟨b.turbo, 1, b.speed⟩
  | 7 => ⟨b.turbo, 2, b.speed⟩
  | 0 => ⟨0, 0, 0⟩
  | 1 => ⟨0, 0, 1⟩
  | 2 => ⟨0, 0, 2⟩
  | 3 => ⟨0, 0, 3⟩
  | 4 => ⟨0, 0, 4⟩
  | 5 => ⟨0, 0, 5⟩
  | _ => b

/-- The fan components after step 3 (R246). -/
def fanStep3 (d : DeviceState) : FanBits :=
  let b := fanStep2 d
  if d.noiseControlEnable = 1 ∧ d.mode = 4 then ⟨0, b.quiet, noiseLevel d.noiseControlHeating.toNat⟩
  else if d.noiseControlEnable = 1 ∧ d.mode = 1 then
    ⟨0, b.quiet, noiseLevel d.noiseControlCooling.toNat⟩
  else b

/-- A register's value after step 1 clears the five fields of a device commanded off (R243). -/
def clearedIfOff (d : DeviceState) (f : Field) : Nat :=
  if d.isOn = 0 ∧ f ∈ [Field.intakeExhaust, .quietType, .sleepCurveType, .humidifyType, .purify] then 0
  else (d.get f).toNat

/-- The temperatures the decoder can produce (spec/45_temperature.md R288). -/
def DecodableTemp (units t2 : Nat) : Prop :=
  (units = 0 ∧ 32 ≤ t2 ∧ t2 ≤ 61) ∨ (units = 1 ∧ 122 ≤ t2 ∧ t2 ≤ 172 ∧ t2 % 2 = 0)

/-- The commands that produce a transmit frame (spec/20_memory.md R60). -/
def ProducesFrame (i : Instr) : Prop :=
  (∃ type len, i = .wrap type len) ∨ i = .query ∨ (∃ latch, i = .encode latch) ∨ i = .encrt

end Sys2Proof.Machine

open Sys2Proof Sys2Proof.Machine

/-! ### Words and steps -/

/-- When the word the host presents next decodes to a command, a step takes the word, advances the index of the current
command by one, and is that command's meaning. `pending` and `index` are the model's own fields (the model's choice, log
entries 1 and 2). -/
def Obligations.StepRunsTheDecodedCommand : Prop :=
  ∀ (s : State) (w : Word) (rest : List Word) (i : Instr),
    s.pending = w :: rest → decode w = .ok i →
      step s = exec i { s with pending := rest, index := s.index + 1 }

/-- Words written out from the spec's encoding (spec/95_test_vectors.md), and the commands they stand for. -/
def Obligations.SpecWordsDecodeAsTheirCommands : Prop :=
  decode 0x02000030#32 = .ok (.rxpush 0x30#8) ∧ decode 0x050A0033#32 = .ok (.txput 0x0A#8 0x33#8)
    ∧ decode 0x13310100#32 = .ok (.wrap 0x31#8 0x00#8) ∧ decode 0x140000FF#32 = .ok .query
    ∧ decode 0x20000000#32 = .ok .decode ∧ decode 0x21010000#32 = .ok (.encode 1#1)
    ∧ decode 0x31237FFF#32 = .ok (.wrf 0x23#8 0x7FFF#16)
    ∧ decode 0x4001002A#32 = .ok (.tdec 1#1 10#4 0#1 1#1)
    ∧ decode 0xFF123456#32 = .error (.illegalOp 0xFF#8)

/-- R102: the opcode map, over every word {OP, A, B}; operand bits a command does not use are ignored (R101). -/
def Obligations.OpcodeMapOfEveryWord : Prop :=
  ∀ (a : Byte) (b : Half),
    decode (0x00#8 ++ a ++ b) = .ok .nop
    ∧ decode (0x01#8 ++ a ++ b) = .ok .rxclr
    ∧ decode (0x02#8 ++ a ++ b) = .ok (.rxpush (b.setWidth 8))
    ∧ decode (0x03#8 ++ a ++ b) = .ok (.rxrd a)
    ∧ decode (0x04#8 ++ a ++ b) = .ok .txclr
    ∧ decode (0x05#8 ++ a ++ b) = .ok (.txput a (b.setWidth 8))
    ∧ decode (0x06#8 ++ a ++ b) = .ok (.txrd a)
    ∧ decode (0x10#8 ++ a ++ b) = .ok .cksum
    ∧ decode (0x11#8 ++ a ++ b) = .ok .hdrchk
    ∧ decode (0x12#8 ++ a ++ b) = .ok .validate
    ∧ decode (0x13#8 ++ a ++ b) = .ok (.wrap a (b.setWidth 8))
    ∧ decode (0x14#8 ++ a ++ b) = .ok .query
    ∧ decode (0x20#8 ++ a ++ b) = .ok .decode
    ∧ decode (0x21#8 ++ a ++ b) = .ok (.encode (a.setWidth 1))
    ∧ decode (0x22#8 ++ a ++ b) = .ok .encrt
    ∧ decode (0x30#8 ++ a ++ b) = .ok (.rdf a)
    ∧ decode (0x31#8 ++ a ++ b) = .ok (.wrf a b)
    ∧ decode (0x40#8 ++ a ++ b) =
        .ok (.tdec (a.setWidth 1) (b.setWidth 4) ((b >>> 4).setWidth 1) ((b >>> 5).setWidth 1))
    ∧ decode (0x41#8 ++ a ++ b) = .ok (.tenc (a.setWidth 1) (b.setWidth 8))
    ∧ decode (0xF0#8 ++ a ++ b) = .ok .srst

/-- Decoding the word of a command gives the command back, with every operand at every value. -/
def Obligations.DecodeOfEncodeIsTheCommand : Prop := ∀ i : Instr, decode (encode i) = .ok i

/-- R103: an OP value outside the map raises IllegalCommand, and no other state changes; there are 236 of them. That the step
also takes the word and advances the index is the model's choice (log entries 1 and 2). -/
def Obligations.IllegalCommandChangesNothingElse : Prop :=
  (∀ (s : State) (w : Word) (rest : List Word), s.pending = w :: rest → IllegalOp (w.toNat / 2 ^ 24) →
    step s = .next { s with
      pending := rest
      index := s.index + 1
      err := .illegalCommand
      result := 0 })
  ∧ ErrCode.illegalCommand.code = 11#4
  ∧ ((List.range 256).filter fun op =>
      match decode (BitVec.ofNat 8 op ++ 0#8 ++ 0#16) with
      | .error _ => true
      | .ok _ => false).length = 236

/-- Every command completes in one step, and so does every step: the block cannot stall, hang or stop. Every presented
word, legal or not, is taken, and the index of the current command advances by exactly one (R21; the model's choice of
fields, log entries 1 and 2). -/
def Obligations.EveryCommandAndStepCompletes : Prop :=
  (∀ (i : Instr) (s : State), ∃ t, exec i s = .next t)
  ∧ (∀ s : State, ∃ t, step s = .next t)
  ∧ ∀ (s : State) (w : Word) (rest : List Word), s.pending = w :: rest →
      ∃ t, step s = .next t ∧ t.pending = rest ∧ t.index = s.index + 1

/-! ### Reset -/

/-- R320: the reset state. -/
def Obligations.ResetStateIsAsTabled : Prop :=
  (∀ a, State.reset.rx.read a = 0#8) ∧ State.reset.rxlen.val = 0 ∧ State.reset.rxok = false
  ∧ (∀ a, State.reset.tx.read a = 0#8) ∧ State.reset.txlen.val = 0
  ∧ (∀ f : Field, (State.reset.ds.get f).toNat = resetValue f)
  ∧ State.reset.status = 0x00#8 ∧ State.reset.result = 0#16

/-- R186: SRST gives every register its reset value, whatever the state. That the commands still to come and the index stay
is the model's choice (log entry 7). -/
def Obligations.SrstRestoresEveryResetValue : Prop :=
  ∀ s : State, ∃ t, exec .srst s = .next t
    ∧ (∀ a, t.rx.read a = 0#8) ∧ t.rxlen.val = 0 ∧ t.rxok = false
    ∧ (∀ a, t.tx.read a = 0#8) ∧ t.txlen.val = 0
    ∧ (∀ f : Field, (t.ds.get f).toNat = resetValue f)
    ∧ t.err = .ok ∧ t.warnUnrec = false ∧ t.warnQuiet3 = false ∧ t.status = 0x00#8 ∧ t.result = 0#16
    ∧ t.pending = s.pending ∧ t.index = s.index

/-- The reset state meets the invariant. -/
def Obligations.ResetMeetsTheInvariant : Prop := State.reset.Inv

/-- Every step keeps the invariant: canonical buffers, RXOK only over a well-formed frame, a well-formed transmit frame
whenever one is offered, and a snapshot whose registers hold values of their domains. -/
def Obligations.StepKeepsTheInvariant : Prop :=
  ∀ s t : State, s.Inv → step s = .next t → t.Inv

/-! ### Buffer access -/

/-- R130: NOP writes STATUS.ERR and RESULT only. -/
def Obligations.NopOnlyClearsErrAndResult : Prop :=
  ∀ s : State, exec .nop s = .next { s with
    err := .ok
    result := 0 }

/-- R132: RXCLR zeroes RX, RXLEN and RXOK and touches nothing else. -/
def Obligations.RxclrEmptiesTheReceiveBuffer : Prop :=
  ∀ s : State, ∃ t, exec .rxclr s = .next t ∧ (∀ a, t.rx.read a = 0#8) ∧ t.rxlen.val = 0
    ∧ t = { s with
      rx := t.rx
      rxlen := t.rxlen
      rxok := false
      err := .ok
      result := 0 }

/-- R134: RXPUSH appends one byte and clears RXOK, or raises BufferOverflow when RX holds 64 bytes. -/
def Obligations.RxpushAppendsOneByteOrOverflows : Prop :=
  ∀ (s : State) (byte : Byte),
    (s.rxlen.val < 64 → ∃ t, exec (.rxpush byte) s = .next t
      ∧ (∀ a, t.rx.read a = if a = s.rxlen.val then byte else s.rx.read a)
      ∧ t.rxlen.val = s.rxlen.val + 1 ∧ t.result.toNat = s.rxlen.val + 1
      ∧ t = { s with
        rx := t.rx
        rxlen := t.rxlen
        rxok := false
        err := .ok
        result := t.result })
    ∧ (s.rxlen.val = 64 → exec (.rxpush byte) s = .next { s with
        err := .bufferOverflow
        result := 0 })

/-- R135: RXRD reads a byte below RXLEN, else BadOperand. -/
def Obligations.RxrdReadsBelowRxlen : Prop :=
  ∀ (s : State) (index : Byte),
    (index.toNat < s.rxlen.val → ∃ t, exec (.rxrd index) s = .next t
      ∧ t.result.toNat = (s.rx.read index.toNat).toNat
      ∧ t = { s with
        err := .ok
        result := t.result })
    ∧ (s.rxlen.val ≤ index.toNat → exec (.rxrd index) s = .next { s with
        err := .badOperand
        result := 0 })

/-- R137: TXCLR zeroes TX and TXLEN and touches nothing else. -/
def Obligations.TxclrEmptiesTheTransmitBuffer : Prop :=
  ∀ s : State, ∃ t, exec .txclr s = .next t ∧ (∀ a, t.tx.read a = 0#8) ∧ t.txlen.val = 0
    ∧ t = { s with
      tx := t.tx
      txlen := t.txlen
      err := .ok
      result := 0 }

/-- R138: TXPUT writes one staging byte and makes the transmit frame unavailable; an index of 64 or more is BadOperand. -/
def Obligations.TxputStagesOneByte : Prop :=
  ∀ (s : State) (index byte : Byte),
    (index.toNat < 64 → ∃ t, exec (.txput index byte) s = .next t
      ∧ (∀ a, t.tx.read a = if a = index.toNat then byte else s.tx.read a)
      ∧ t = { s with
        tx := t.tx
        txlen := 0
        err := .ok
        result := 0 })
    ∧ (64 ≤ index.toNat → exec (.txput index byte) s = .next { s with
        err := .badOperand
        result := 0 })

/-- R139: TXRD reads a byte of the current transmit frame without consuming it, else BadOperand. -/
def Obligations.TxrdReadsTheOfferedFrame : Prop :=
  ∀ (s : State) (index : Byte),
    (index.toNat < s.txlen.val → ∃ t, exec (.txrd index) s = .next t
      ∧ t.result.toNat = (s.tx.read index.toNat).toNat
      ∧ t = { s with
        err := .ok
        result := t.result })
    ∧ (s.txlen.val ≤ index.toNat → exec (.txrd index) s = .next { s with
        err := .badOperand
        result := 0 })

/-! ### Frame layer -/

/-- R150, R151: CKSUM reports the sum of bytes 2 ≤ i < RXLEN-1 mod 256, or ShortBuffer below 4 bytes. -/
def Obligations.CksumSumsFromTheLengthByte : Prop :=
  ∀ s : State,
    (4 ≤ s.rxlen.val → ∃ t, exec .cksum s = .next t ∧ t.result.toNat = byteSum s.rx s.rxlen.val
      ∧ t = { s with
        err := .ok
        result := t.result })
    ∧ (s.rxlen.val < 4 → exec .cksum s = .next { s with
        err := .shortBuffer
        result := 0 })

/-- R152, R153: HDRCHK checks the first three bytes and reports the length byte. -/
def Obligations.HdrchkReportsTheLengthByte : Prop :=
  ∀ s : State,
    let ok := s.rx.read 0 = 0x7E#8 ∧ s.rx.read 1 = 0x7E#8 ∧ (s.rx.read 2).toNat ≤ 60
    (3 ≤ s.rxlen.val → ok → ∃ t, exec .hdrchk s = .next t ∧ t.result.toNat = (s.rx.read 2).toNat
      ∧ t = { s with
        err := .ok
        result := t.result })
    ∧ (3 ≤ s.rxlen.val → ¬ ok → exec .hdrchk s = .next { s with
        err := .malformedHeader
        result := 0 })
    ∧ (s.rxlen.val < 3 → exec .hdrchk s = .next { s with
        err := .shortBuffer
        result := 0 })

/-- R155: VALIDATE's checks in their order, the first that fails reported; RXOK is 1 after it exactly if all pass. -/
def Obligations.ValidateReportsTheFirstFailedCheck : Prop :=
  ∀ s : State,
    let n := s.rxlen.val
    let header := s.rx.read 0 = 0x7E#8 ∧ s.rx.read 1 = 0x7E#8 ∧ (s.rx.read 2).toNat ≤ 60
    let failed := fun e : ErrCode => exec .validate s = .next { s with
      rxok := false
      err := e
      result := 0 }
    (n < 3 → failed .shortBuffer)
    ∧ (3 ≤ n → ¬ header → failed .malformedHeader)
    ∧ (3 ≤ n → header → n ≠ 3 + (s.rx.read 2).toNat → failed .lengthMismatch)
    ∧ (n = 3 → header → n = 3 + (s.rx.read 2).toNat → failed .shortBuffer)
    ∧ (4 ≤ n → header → n = 3 + (s.rx.read 2).toNat → (s.rx.read (n - 1)).toNat ≠ byteSum s.rx n →
        failed .checksumMismatch)
    ∧ (4 ≤ n → header → n = 3 + (s.rx.read 2).toNat → (s.rx.read (n - 1)).toNat = byteSum s.rx n →
        ∃ t, exec .validate s = .next t ∧ t.result.toNat = n
          ∧ t = { s with
            rxok := true
            err := .ok
            result := t.result })

/-- R160: WRAP frames the payload staged at TX[4..P+3]; P above 58 is BufferOverflow. -/
def Obligations.WrapFramesTheStagedPayload : Prop :=
  ∀ (s : State) (type len : Byte),
    (len.toNat ≤ 58 → ∃ t, exec (.wrap type len) s = .next t
      ∧ t.tx.read 0 = 0x7E#8 ∧ t.tx.read 1 = 0x7E#8 ∧ (t.tx.read 2).toNat = len.toNat + 2
      ∧ t.tx.read 3 = type
      ∧ (∀ a, 4 ≤ a → a ≠ len.toNat + 4 → t.tx.read a = s.tx.read a)
      ∧ (t.tx.read (len.toNat + 4)).toNat = byteSum t.tx (len.toNat + 5)
      ∧ t.txlen.val = len.toNat + 5 ∧ t.result.toNat = len.toNat + 5
      ∧ t = { s with
        tx := t.tx
        txlen := t.txlen
        err := .ok
        result := t.result })
    ∧ (58 < len.toNat → exec (.wrap type len) s = .next { s with
        err := .bufferOverflow
        result := 0 })

/-- R163: QUERY builds 7E 7E 02 02 04, the frame WRAP builds with type 0x02 and no payload. -/
def Obligations.QueryBuildsTheFiveByteFrame : Prop :=
  ∀ s : State, ∃ t, exec .query s = .next t
    ∧ (∀ a, t.tx.read a = if a = 0 ∨ a = 1 then 0x7E#8 else if a = 2 ∨ a = 3 then 0x02#8
        else if a = 4 then 0x04#8 else s.tx.read a)
    ∧ t.txlen.val = 5 ∧ t.result.toNat = 5
    ∧ t = { s with
      tx := t.tx
      txlen := t.txlen
      err := .ok
      result := t.result }
    ∧ ∃ u, exec (.wrap 0x02#8 0x00#8) s = .next u ∧ ∀ a, u.tx.read a = t.tx.read a

/-- The first half of R161's law: a frame that WRAP, QUERY, ENCODE or ENCRT produced, loaded into RX byte for byte with
LOADRX, passes VALIDATE. -/
def Obligations.ProducedFramesValidateWhenPushedBack : Prop :=
  ∀ (i : Instr) (s t : State), ProducesFrame i → exec i s = .next t → t.err = .ok →
    ∀ r : State, ∃ u,
      runAll (pseudoLoadrx (frameBytes t.tx t.txlen.val) ++ [.validate]) r = .next u
      ∧ u.rxok = true ∧ u.err = .ok ∧ u.rxlen.val = t.txlen.val ∧ u.result.toNat = t.txlen.val
      ∧ (∀ a, a < t.txlen.val → u.rx.read a = t.tx.read a) ∧ u.ds = r.ds

/-- The second half of R161's law: a well-formed frame with any single byte changed fails VALIDATE, with the error R161
names for the place of the byte. -/
def Obligations.OneChangedByteFailsValidate : Prop :=
  ∀ (m : Memory) (n k : Nat) (b : Byte) (s : State), WellFramed m n → k < n → b ≠ m.read k →
    s.rxlen.val = n → (∀ a, a < n → s.rx.read a = if a = k then b else m.read a) →
    ∃ t, exec .validate s = .next t ∧ t.rxok = false
      ∧ (k < 2 → t.err = .malformedHeader)
      ∧ (k = 2 → t.err = .malformedHeader ∨ t.err = .lengthMismatch)
      ∧ (3 ≤ k → t.err = .checksumMismatch)

/-! ### Field access -/

/-- R180: RDF reads the register its id names, zero-extended; the ids 0x38..0xFF are BadOperand. -/
def Obligations.RdfReadsTheRegisterOfItsId : Prop :=
  ∀ s : State,
    (∀ p ∈ fieldTable s.ds, ∃ t, exec (.rdf p.1) s = .next t ∧ t.result.toNat = p.2
      ∧ t = { s with
        err := .ok
        result := t.result })
    ∧ ∀ a : Byte, 0x38 ≤ a.toNat → exec (.rdf a) s = .next { s with
        err := .badOperand
        result := 0 }

/-- R182: WRF writes the named register and no other, or raises BadOperand: for an undefined id, for VALID, and for a value
outside the field's domain. -/
def Obligations.WrfWritesOnlyTheNamedRegister : Prop :=
  ∀ (s : State) (value : Half),
    (∀ f : Field, f ≠ .valid → inDomain Config.machine f value = true →
      ∃ t, exec (.wrf f.id value) s = .next t ∧ t.ds.get f = value
        ∧ (∀ g : Field, g ≠ f → t.ds.get g = s.ds.get g)
        ∧ t = { s with
          ds := t.ds
          err := .ok
          result := 0 })
    ∧ (∀ f : Field, f = .valid ∨ inDomain Config.machine f value = false →
      exec (.wrf f.id value) s = .next { s with
        err := .badOperand
        result := 0 })
    ∧ ∀ a : Byte, 0x38 ≤ a.toNat → exec (.wrf a value) s = .next { s with
        err := .badOperand
        result := 0 }

/-- The values WRF accepts, field by field (R183; R24 for VALID). -/
def Obligations.WrfAcceptsExactlyTheDomain : Prop :=
  ∀ (s : State) (v : Half),
    let p := Config.machine.params
    let accepts := fun f : Field => ∃ t, exec (.wrf f.id v) s = .next t ∧ t.err = .ok
    (accepts .mode ↔ v.toNat ≤ 7)
    ∧ (accepts .tempUnits ↔ v.toNat ≤ 1)
    ∧ (accepts .fanState ↔ v.toNat ≤ 10 ∨ v.toNat = 15)
    ∧ (accepts .sleepCurveType ↔ v.toNat ∈ [0, 1, 2, 3, 128])
    ∧ (accepts .regionalSwingPosition ↔ v.toNat ≤ 256)
    ∧ (accepts .pass27 ↔ v.toNat < 256 ∧ ∀ k, v.getLsbD k = true → p.pass27Mask.getLsbD k = true)
    ∧ (accepts .heatAssist ↔ v.toNat < 2 ^ p.wHa)
    ∧ (accepts .remoteTempVal ↔ v.toNat < 2 ^ p.wRemote)
    ∧ (accepts .noiseControlHeating ↔ v.toNat < 2 ^ p.wNoise)
    ∧ (accepts .noiseControlCooling ↔ v.toNat < 2 ^ p.wNoise)
    ∧ (∀ k, accepts (.customSleepCurve k) ↔ v.toNat < 2 ^ p.wCurve)
    ∧ (accepts .sleepCurveClock ↔ v.toNat < 2 ^ p.wScclock)
    ∧ ¬ accepts .valid
    ∧ ∀ f : Field, f ∉ [Field.valid, .mode, .tempUnits, .fanState, .sleepCurveType, .regionalSwingPosition,
        .pass27, .heatAssist, .remoteTempVal, .noiseControlHeating, .noiseControlCooling, .sleepCurveClock] →
        f ∉ Field.customSleepCurves → (accepts f ↔ v.toNat < 2 ^ f.width)

/-! ### Decode -/

/-- R201: DECODE's preconditions in their order; a failure changes nothing but STATUS.ERR and RESULT. -/
def Obligations.DecodeReportsTheFirstFailedPrecondition : Prop :=
  ∀ s : State,
    let failed := fun e : ErrCode => exec .decode s = .next { s with
      err := e
      result := 0 }
    (s.rxok = false → failed .unvalidatedFrame)
    ∧ (s.rxok = true → s.rxlen.val < 51 → failed .truncatedFrame)
    ∧ (s.rxok = true → 51 ≤ s.rxlen.val → s.rx.read 3 ≠ 0x31#8 → s.rx.read 3 ≠ 0x32#8 →
        failed .unexpectedFrameType)

/-- R202, R203 with R280: power, mode, the unit and the temperature of the decoded snapshot. -/
def Obligations.DecodeReadsPowerModeAndTemperature : Prop :=
  ∀ s : State, DecodeReady s → ∃ t, exec .decode s = .next t
    ∧ t.ds.isOn.toNat = (s.rx.read 8).toNat / 128
    ∧ t.ds.mode.toNat = (s.rx.read 8).toNat / 16 % 8
    ∧ t.ds.tempUnits.toNat = (s.rx.read 11).toNat / 128
    ∧ (t.ds.tempUnits.toNat = 0 → t.ds.temp.toNat =
        2 * min ((s.rx.read 9).toNat / 16 + 16) 30 + (s.rx.read 14).toNat / 8 % 2)
    ∧ (t.ds.tempUnits.toNat = 1 → (s.rx.read 9).toNat / 16 = 0 → t.ds.temp.toNat = 122)
    ∧ (t.ds.tempUnits.toNat = 1 → (s.rx.read 9).toNat / 16 ≠ 0 → t.ds.temp.toNat =
        2 * min ((9 * ((s.rx.read 9).toNat / 16) + 304) / 5 + (s.rx.read 11).toNat / 64 % 2) 86)

/-- R204: the X-Fan bit goes where the decoded mode says; other modes leave both registers. -/
def Obligations.DecodeSelectsXFanByMode : Prop :=
  ∀ s : State, DecodeReady s → ∃ t, exec .decode s = .next t
    ∧ (t.ds.mode.toNat = 1 ∨ t.ds.mode.toNat = 2 →
        t.ds.xFan.toNat = (s.rx.read 10).toNat / 8 % 2 ∧ t.ds.xFanForHeat.toNat = 0)
    ∧ (t.ds.mode.toNat = 4 → t.ds.xFanForHeat.toNat = (s.rx.read 10).toNat / 8 % 2 ∧ t.ds.xFan.toNat = 0)
    ∧ (t.ds.mode.toNat ∉ [1, 2, 4] → t.ds.xFan = s.ds.xFan ∧ t.ds.xFanForHeat = s.ds.xFanForHeat)

/-- R205, R206: the fan components and the priority that derives fan_state; WARN_QUIET3 is set exactly by quiet_type 3 with
turbo 0. -/
def Obligations.DecodeDerivesFanStateByPriority : Prop :=
  ∀ s : State, DecodeReady s → ∃ t, exec .decode s = .next t
    ∧ t.ds.turbo.toNat = (s.rx.read 10).toNat % 2
    ∧ t.ds.quietType.toNat = (s.rx.read 20).toNat / 4 % 4
    ∧ t.ds.fanSpeed.toNat = (s.rx.read 22).toNat % 8
    ∧ t.ds.fanState.toNat = fanPriority t.ds.turbo.toNat t.ds.quietType.toNat t.ds.fanSpeed.toNat
    ∧ (t.warnQuiet3 = true ↔ t.ds.turbo.toNat = 0 ∧ t.ds.quietType.toNat = 3)
    ∧ (t.ds.fanState.toNat = 10 → t.warnUnrec = true)

/-- R207 with R74: the SIESTA bit, else the index of one bit of byte 8 and one of byte 20. -/
def Obligations.DecodeReadsTheSleepCurve : Prop :=
  ∀ s : State, DecodeReady s →
    let p := Config.machine.params
    let bit8 := (s.rx.read 8).toNat / 2 ^ p.sleepB8 % 2
    let bit20 := (s.rx.read 20).toNat / 2 ^ p.sleepB20 % 2
    ∃ t, exec .decode s = .next t
      ∧ (128 ≤ (s.rx.read 20).toNat → t.ds.sleepCurveType.toNat = 128)
      ∧ ((s.rx.read 20).toNat < 128 → p.sleepHi = .byte8 → t.ds.sleepCurveType.toNat = 2 * bit8 + bit20)
      ∧ ((s.rx.read 20).toNat < 128 → p.sleepHi = .byte20 → t.ds.sleepCurveType.toNat = 2 * bit20 + bit8)

/-- R208, R209, R211: the split field, the swing position with its spill bit, and the pass-through bytes. -/
def Obligations.DecodeReadsSplitSwingAndPassThrough : Prop :=
  ∀ s : State, DecodeReady s →
    let p := Config.machine.params
    ∃ t, exec .decode s = .next t
      ∧ t.ds.minutesUntilOn.toNat = (s.rx.read 17).toNat / 16 % 8 * 256 + (s.rx.read 16).toNat
      ∧ ((s.rx.read p.swingSpillByte).getLsbD p.swingSpillBit = true → t.ds.regionalSwingPosition.toNat = 256)
      ∧ ((s.rx.read p.swingSpillByte).getLsbD p.swingSpillBit = false →
          t.ds.regionalSwingPosition.toNat = (s.rx.read p.swingByte).toNat)
      ∧ t.ds.pass27 = s.rx.read 27 &&& p.pass27Mask
      ∧ t.ds.pass41 = s.rx.read 41

/-- R210: every FIELD_MAP field is the extraction of its segment list. -/
def Obligations.DecodeExtractsEveryMappedField : Prop :=
  ∀ s : State, DecodeReady s → ∃ t, exec .decode s = .next t
    ∧ ∀ g ∈ Field.mapped, (t.ds.get g).toNat = extract s.rx (Config.machine.params.fieldMap g)

/-- R212 with R214: a decode that passes its checks sets VALID and both WARN bits and writes nothing but DS, STATUS and
RESULT. -/
def Obligations.DecodeCommitsSnapshotAndWarnings : Prop :=
  ∀ s : State, DecodeReady s → ∃ t, exec .decode s = .next t
    ∧ t.ds.valid = 1
    ∧ (t.warnQuiet3 = true ↔ t.ds.turbo.toNat = 0 ∧ t.ds.quietType.toNat = 3)
    ∧ (t.warnUnrec = true ↔ t.ds.humidifyType.toNat = 7 ∨ t.ds.horizontalAirDirection.toNat = 7
        ∨ t.ds.verticalAirDirection.toNat = 7
        ∨ (t.ds.turbo.toNat = 0 ∧ t.ds.quietType.toNat = 0 ∧ 6 ≤ t.ds.fanSpeed.toNat))
    ∧ t = { s with
      ds := t.ds
      err := .ok
      warnUnrec := t.warnUnrec
      warnQuiet3 := t.warnQuiet3
      result := 0 }

/-- R213: DECODE writes neither buffer, and a second DECODE of the same frame gives the same snapshot and warnings. -/
def Obligations.SecondDecodeOfTheFrameChangesNothing : Prop :=
  ∀ s t : State, exec .decode s = .next t →
    (t.rx = s.rx ∧ t.rxlen = s.rxlen ∧ t.rxok = s.rxok ∧ t.tx = s.tx ∧ t.txlen = s.txlen)
    ∧ (DecodeReady s → ∀ r : State, r.rx = s.rx → r.rxlen = s.rxlen → r.rxok = s.rxok → r.ds = t.ds →
        ∃ u, exec .decode r = .next u ∧ u.ds = t.ds ∧ u.warnUnrec = t.warnUnrec
          ∧ u.warnQuiet3 = t.warnQuiet3)

/-- What DECODE can learn from a frame (R215): only the bits that a position covers and byte 41. Two frames that agree on
those give the same snapshot and warnings, whatever their status type, byte 4 and other bits are. -/
def Obligations.DecodeDependsOnlyOnCoveredBits : Prop :=
  ∀ r s : State, DecodeReady r → DecodeReady s → r.ds = s.ds →
    (∀ cell ∈ Config.machine.params.coveredCells, 40 ≤ cell → frameBit r.rx cell = frameBit s.rx cell) →
    r.rx.read 41 = s.rx.read 41 →
    ∃ t u, exec .decode r = .next t ∧ exec .decode s = .next u ∧ t.ds = u.ds
      ∧ t.warnUnrec = u.warnUnrec ∧ t.warnQuiet3 = u.warnQuiet3

/-! ### Encode -/

/-- R241, R262: ENCODE and ENCRT refuse while VALID = 0, and leave no frame to send. -/
def Obligations.EncodeRefusesAnInvalidSnapshot : Prop :=
  ∀ (s : State) (latch : BitVec 1), s.ds.valid = 0 →
    let refused := Host.Outcome.next { s with
      txlen := 0
      err := .invalidStateForEncode
      result := 0 }
    exec (.encode latch) s = refused ∧ exec .encrt s = refused

/-- R250, R254, R258 and the frame of ENCODE: a 40-byte command frame, well formed, its intent byte INTENT_BASE with bit 1
the timer latch and bit 6 the remote-sensor enable, zero beyond the frame; nothing but TX, TXLEN, STATUS.ERR and RESULT
changes. -/
def Obligations.EncodeEmitsAWellFormedCommandFrame : Prop :=
  ∀ (s : State) (latch : BitVec 1), s.ds.valid = 1 → ∃ t, exec (.encode latch) s = .next t
    ∧ t.tx.read 0 = 0x7E#8 ∧ t.tx.read 1 = 0x7E#8 ∧ t.tx.read 2 = 0x25#8 ∧ t.tx.read 3 = 0x01#8
    ∧ ((t.tx.read 4).getLsbD 1 = true ↔ latch = 1)
    ∧ ((t.tx.read 4).getLsbD 6 = true ↔ s.ds.useRemoteTempSensor = 1)
    ∧ (∀ k, k ≠ 1 → k ≠ 6 → (t.tx.read 4).getLsbD k = Config.machine.params.intentBase.getLsbD k)
    ∧ WellFramed t.tx 40 ∧ (∀ a, 40 ≤ a → t.tx.read a = 0#8)
    ∧ t.txlen.val = 40 ∧ t.result.toNat = 40
    ∧ t = { s with
      tx := t.tx
      txlen := t.txlen
      err := .ok
      result := t.result }

/-- R251, R252 with R282: power, mode, unit and temperature of the command frame. The Fahrenheit formula rests on the
conversion R282 marks as general knowledge (log entry 11). -/
def Obligations.EncodeWritesPowerModeAndTemperature : Prop :=
  ∀ (s : State) (latch : BitVec 1), s.ds.valid = 1 → s.ds.tempUnits.toNat ≤ 1 →
    let t2 : Int := s.ds.temp.toNat
    ∃ t, exec (.encode latch) s = .next t
      ∧ (t.tx.read 8).toNat / 128 = s.ds.isOn.toNat
      ∧ (t.tx.read 8).toNat / 16 % 8 = s.ds.mode.toNat % 8
      ∧ (t.tx.read 11).toNat / 128 = s.ds.tempUnits.toNat
      ∧ (s.ds.tempUnits.toNat = 1 →
          ((t.tx.read 9).toNat / 16 : Int) = min (max ((5 * t2 - 599) / 18) 0) 14
          ∧ ((t.tx.read 11).toNat / 64 % 2 = 1 ↔ t2 % 2 = 0 ∧
              t2 / 2 ∈ [63, 65, 67, 70, 72, 74, 76, 79, 81, 83, 85])
          ∧ (t.tx.read 14).toNat / 8 % 2 = 0)
      ∧ (s.ds.tempUnits.toNat = 0 →
          ((t.tx.read 9).toNat / 16 : Int) = min (max (t2 / 2 - 16) 0) 14
          ∧ (t.tx.read 11).toNat / 64 % 2 = 0
          ∧ ((t.tx.read 14).toNat / 8 % 2 : Int) = t2 % 2)

/-- R253, R256: the X-Fan bit and heat_assist are written only in the modes that own them. -/
def Obligations.EncodeGatesXFanAndHeatAssistByMode : Prop :=
  ∀ (s : State) (latch : BitVec 1), s.ds.valid = 1 →
    let p := Config.machine.params
    ∃ t, exec (.encode latch) s = .next t
      ∧ (s.ds.mode = 1 ∨ s.ds.mode = 2 → (t.tx.read 10).toNat / 8 % 2 = s.ds.xFan.toNat)
      ∧ (s.ds.mode = 4 → (t.tx.read 10).toNat / 8 % 2 = s.ds.xFanForHeat.toNat)
      ∧ (s.ds.mode ≠ 1 → s.ds.mode ≠ 2 → s.ds.mode ≠ 4 → (t.tx.read 10).toNat / 8 % 2 = 0)
      ∧ (s.ds.mode = 4 → extract t.tx (p.fieldMap .heatAssist) = s.ds.heatAssist.toNat % 2 ^ p.wHa)
      ∧ (s.ds.mode ≠ 4 → extract t.tx (p.fieldMap .heatAssist) = 0)

/-- R243 to R247 in the fixed order, seen in the frame: turbo, quiet_type and fan_speed after steps 1, 2 and 3. That the
fan_state codes 11..14, which no run reaches, count as absent is the model's choice (log entry 5). -/
def Obligations.EncodeNormalisesTheFanInOrder : Prop :=
  ∀ (s : State) (latch : BitVec 1), s.ds.valid = 1 → ∃ t, exec (.encode latch) s = .next t
    ∧ (t.tx.read 10).toNat % 2 = (fanStep3 s.ds).turbo
    ∧ (t.tx.read 20).toNat / 4 % 4 = (fanStep3 s.ds).quiet
    ∧ (t.tx.read 22).toNat % 8 = (fanStep3 s.ds).speed

/-- R255: the sleep curve and the split field; SIESTA leaves both index bits 0. -/
def Obligations.EncodeWritesSleepAndSplitField : Prop :=
  ∀ (s : State) (latch : BitVec 1), s.ds.valid = 1 →
    let p := Config.machine.params
    let sleep := clearedIfOff s.ds .sleepCurveType
    ∃ t, exec (.encode latch) s = .next t
      ∧ ((t.tx.read 20).toNat / 128 = 1 ↔ sleep = 128)
      ∧ (sleep = 128 → (t.tx.read 8).toNat / 2 ^ p.sleepB8 % 2 = 0
          ∧ (t.tx.read 20).toNat / 2 ^ p.sleepB20 % 2 = 0)
      ∧ (sleep ≠ 128 → p.sleepHi = .byte8 →
          (t.tx.read 8).toNat / 2 ^ p.sleepB8 % 2 = sleep / 2 % 2
          ∧ (t.tx.read 20).toNat / 2 ^ p.sleepB20 % 2 = sleep % 2)
      ∧ (sleep ≠ 128 → p.sleepHi = .byte20 →
          (t.tx.read 20).toNat / 2 ^ p.sleepB20 % 2 = sleep / 2 % 2
          ∧ (t.tx.read 8).toNat / 2 ^ p.sleepB8 % 2 = sleep % 2)
      ∧ (t.tx.read 16).toNat = s.ds.minutesUntilOn.toNat % 256
      ∧ (t.tx.read 17).toNat / 16 % 8 = s.ds.minutesUntilOn.toNat / 256

/-- R257: swing position 256 is position byte 0 with the spill bit set; every other value is written with it clear. -/
def Obligations.EncodeSpillsSwingPosition256 : Prop :=
  ∀ (s : State) (latch : BitVec 1), s.ds.valid = 1 →
    let p := Config.machine.params
    ∃ t, exec (.encode latch) s = .next t
      ∧ (s.ds.regionalSwingPosition.toNat = 256 → t.tx.read p.swingByte = 0#8
          ∧ (t.tx.read p.swingSpillByte).getLsbD p.swingSpillBit = true)
      ∧ (s.ds.regionalSwingPosition.toNat ≠ 256 →
          (t.tx.read p.swingByte).toNat = s.ds.regionalSwingPosition.toNat % 256
          ∧ (t.tx.read p.swingSpillByte).getLsbD p.swingSpillBit = false)

/-- R259: every other FIELD_MAP field is packed as step 1 left it, and the pass-through bits of byte 27 as they stand. -/
def Obligations.EncodePacksEveryMappedField : Prop :=
  ∀ (s : State) (latch : BitVec 1), s.ds.valid = 1 →
    let p := Config.machine.params
    ∃ t, exec (.encode latch) s = .next t
      ∧ (∀ g ∈ Field.mapped, g ≠ .heatAssist →
          extract t.tx (p.fieldMap g) = clearedIfOff s.ds g % 2 ^ p.wireWidth g)
      ∧ t.tx.read 27 &&& p.pass27Mask = s.ds.pass27 &&& p.pass27Mask

/-- R77 for ENCODE: in bytes 5..38 every bit that no position covers is 0. -/
def Obligations.EncodeLeavesUncoveredBitsZero : Prop :=
  ∀ (s : State) (latch : BitVec 1), s.ds.valid = 1 → ∃ t, exec (.encode latch) s = .next t
    ∧ ∀ cell, 5 ≤ cell / 8 → cell / 8 ≤ 38 → cell ∉ Config.machine.params.coveredCells →
      frameBit t.tx cell = false

/-- R260, R261: the remote-temperature update frame holds the intent byte and remote_temp_val, and nothing else. -/
def Obligations.EncrtEmitsTheMinimalFrame : Prop :=
  ∀ s : State, s.ds.valid = 1 →
    let p := Config.machine.params
    ∃ t, exec .encrt s = .next t
      ∧ t.tx.read 2 = 0x25#8 ∧ t.tx.read 3 = 0x01#8
      ∧ t.tx.read 4 = p.intentBase ||| 0x40#8
      ∧ extract t.tx (p.fieldMap .remoteTempVal) = s.ds.remoteTempVal.toNat % 2 ^ p.wRemote
      ∧ (∀ cell, 5 ≤ cell / 8 → cell / 8 ≠ 39 → cell ∉ segsCells (p.fieldMap .remoteTempVal) →
          frameBit t.tx cell = false)
      ∧ WellFramed t.tx 40 ∧ t.txlen.val = 40 ∧ t.result.toNat = 40
      ∧ t = { s with
        tx := t.tx
        txlen := t.txlen
        err := .ok
        result := t.result }

/-- R264, the round trip: the bytes 4..38 of an encoded frame, received in a status frame with zeros after them, decode to
the snapshot that was encoded, but for what normalisation changed, heat_assist outside heat mode, the X-Fan register the
mode does not select, and pass41. -/
def Obligations.DecodeOfEncodeRestoresTheSnapshot : Prop :=
  ∀ (s t r : State) (latch : BitVec 1), SnapshotLegal Config.machine s.ds → s.ds.valid = 1 →
    exec (.encode latch) s = .next t → DecodeReady r →
    (∀ a, 4 ≤ a → a ≤ 38 → r.rx.read a = t.tx.read a) → (∀ a, 39 ≤ a → a ≤ 49 → r.rx.read a = 0#8) →
    ∃ u, exec .decode r = .next u
      ∧ u.ds.isOn = s.ds.isOn ∧ u.ds.mode = s.ds.mode ∧ u.ds.tempUnits = s.ds.tempUnits
      ∧ (DecodableTemp s.ds.tempUnits.toNat s.ds.temp.toNat → u.ds.temp = s.ds.temp)
      ∧ u.ds.turbo.toNat = (fanStep3 s.ds).turbo ∧ u.ds.quietType.toNat = (fanStep3 s.ds).quiet
      ∧ u.ds.fanSpeed.toNat = (fanStep3 s.ds).speed
      ∧ u.ds.fanState.toNat =
          fanPriority (fanStep3 s.ds).turbo (fanStep3 s.ds).quiet (fanStep3 s.ds).speed
      ∧ (s.ds.mode = 1 ∨ s.ds.mode = 2 → u.ds.xFan = s.ds.xFan)
      ∧ (s.ds.mode = 4 → u.ds.xFanForHeat = s.ds.xFanForHeat)
      ∧ u.ds.sleepCurveType.toNat = clearedIfOff s.ds .sleepCurveType
      ∧ u.ds.minutesUntilOn = s.ds.minutesUntilOn
      ∧ u.ds.regionalSwingPosition = s.ds.regionalSwingPosition
      ∧ (∀ g ∈ Field.mapped, (g = .heatAssist → s.ds.mode = 4) →
          (u.ds.get g).toNat = clearedIfOff s.ds g)
      ∧ u.ds.pass27 = s.ds.pass27 ∧ u.ds.pass41 = 0#8

/-! ### Temperature -/

/-- R284 with R280: TDEC evaluates decode_temp and touches nothing but STATUS.ERR and RESULT. -/
def Obligations.TdecEvaluatesDecodeTemp : Prop :=
  ∀ (s : State) (units lo h : BitVec 1) (upper : BitVec 4), ∃ t, exec (.tdec units upper lo h) s = .next t
    ∧ (units = 0 → t.result.toNat = 2 * min (upper.toNat + 16) 30 + h.toNat)
    ∧ (units = 1 → upper = 0 → t.result.toNat = 122)
    ∧ (units = 1 → upper ≠ 0 → t.result.toNat = 2 * min ((9 * upper.toNat + 304) / 5 + lo.toNat) 86)
    ∧ t = { s with
      err := .ok
      result := t.result }

/-- R286 with R282: TENC evaluates encode_temp and touches nothing but STATUS.ERR and RESULT. The Fahrenheit index is given
twice, by R282's formula and by its reading as the floor of (F - 32)·5/9 - 15.5, F = t2/2, clamped to [0, 14]; R282 marks
that conversion as general knowledge (log entry 11). -/
def Obligations.TencEvaluatesEncodeTemp : Prop :=
  ∀ (s : State) (units : BitVec 1) (t2 : Byte), ∃ t, exec (.tenc units t2) s = .next t
    ∧ (units = 1 →
        ((t.result.toNat % 16 : Nat) : Int) = min (max ((5 * (t2.toNat : Int) - 599) / 18) 0) 14
        ∧ ((t.result.toNat % 16 : Nat) : Int) =
            min (max ⌊((t2.toNat : ℚ) / 2 - 32) * 5 / 9 - 31 / 2⌋ 0) 14
        ∧ (t.result.toNat / 16 % 2 = 1 ↔ t2.toNat % 2 = 0 ∧
            t2.toNat / 2 ∈ [63, 65, 67, 70, 72, 74, 76, 79, 81, 83, 85])
        ∧ t.result.toNat / 32 = 0)
    ∧ (units = 0 →
        ((t.result.toNat % 16 : Nat) : Int) = min (max ((t2.toNat : Int) / 2 - 16) 0) 14
        ∧ t.result.toNat / 16 % 2 = 0 ∧ t.result.toNat / 32 = t2.toNat % 2)
    ∧ t = { s with
      err := .ok
      result := t.result }

/-- R288: TENC's result fed to TDEC in the same unit gives the temperature back, for every temperature the decoder can
produce. -/
def Obligations.TdecOfTencRestoresTheTemperature : Prop :=
  ∀ (s : State) (units : BitVec 1) (t2 : Byte), DecodableTemp units.toNat t2.toNat →
    ∃ t u, exec (.tenc units t2) s = .next t
      ∧ exec (.tdec units (t.result.setWidth 4) ((t.result >>> 4).setWidth 1) ((t.result >>> 5).setWidth 1)) t
          = .next u
      ∧ u.result.toNat = t2.toNat

/-! ### Whole-machine rules -/

/-- R27, R300: the bits of STATUS and the numbers of the error codes; codes 12..15 are never held. -/
def Obligations.StatusIsLaidOutAsTabled : Prop :=
  (∀ s : State, s.status.toNat = 128 * s.rxok.toNat + 64 * s.ds.valid.toNat + 32 * s.warnQuiet3.toNat
    + 16 * s.warnUnrec.toNat + s.err.code.toNat ∧ s.err.code.toNat ≤ 11)
  ∧ ErrCode.ok.code = 0#4 ∧ ErrCode.malformedHeader.code = 1#4 ∧ ErrCode.checksumMismatch.code = 2#4
  ∧ ErrCode.truncatedFrame.code = 3#4 ∧ ErrCode.invalidStateForEncode.code = 4#4
  ∧ ErrCode.shortBuffer.code = 5#4 ∧ ErrCode.lengthMismatch.code = 6#4
  ∧ ErrCode.unexpectedFrameType.code = 7#4 ∧ ErrCode.unvalidatedFrame.code = 8#4
  ∧ ErrCode.bufferOverflow.code = 9#4 ∧ ErrCode.badOperand.code = 10#4
  ∧ ErrCode.illegalCommand.code = 11#4

/-- R302: a command that ends in an error changes ERR and RESULT, RXOK if it is VALIDATE, TXLEN if it is ENCODE or ENCRT,
and nothing else; the next command executes normally. -/
def Obligations.ErrorsChangeOnlyTheirListedEffects : Prop :=
  ∀ (i : Instr) (s t : State), exec i s = .next t → t.err ≠ .ok →
    t = { s with
      err := t.err
      result := 0
      rxok := if i = .validate then false else s.rxok
      txlen := if i = .encrt ∨ (∃ latch, i = .encode latch) then 0 else s.txlen }
    ∧ ∀ j : Instr, ∃ u, exec j t = .next u

/-- R303: the WARN bits are written only by a DECODE that passes its preconditions and by SRST, which clears them. -/
def Obligations.WarnBitsComeFromTheLastDecode : Prop :=
  ∀ (i : Instr) (s t : State), exec i s = .next t →
    (i ≠ .srst → ¬ (i = .decode ∧ DecodeReady s) → t.warnUnrec = s.warnUnrec ∧ t.warnQuiet3 = s.warnQuiet3)
    ∧ (i = .srst → t.warnUnrec = false ∧ t.warnQuiet3 = false)

/-- R23: VALID is set only by a successful DECODE and cleared only by reset. -/
def Obligations.ValidIsSetByDecodeAndClearedByReset : Prop :=
  ∀ (i : Instr) (s t : State), exec i s = .next t →
    (s.ds.valid = 0 → t.ds.valid = 1 → i = .decode ∧ DecodeReady s ∧ t.err = .ok)
    ∧ (s.ds.valid = 1 → t.ds.valid = 0 → i = .srst)

/-- R158: RXOK is set only by a VALIDATE that passes every check, and cleared only by VALIDATE, RXCLR, RXPUSH and SRST. -/
def Obligations.RxokIsSetOnlyByPassingValidate : Prop :=
  ∀ (i : Instr) (s t : State), exec i s = .next t →
    (s.rxok = false → t.rxok = true → i = .validate ∧ WellFramed s.rx s.rxlen.val)
    ∧ (s.rxok = true → t.rxok = false →
        (i = .validate ∧ ¬ WellFramed s.rx s.rxlen.val) ∨ i = .rxclr ∨ (∃ b, i = .rxpush b) ∨ i = .srst)
    ∧ (i = .rxclr ∨ i = .srst ∨ (i = .validate ∧ t.err ≠ .ok) ∨ ((∃ b, i = .rxpush b) ∧ t.err = .ok) →
        t.rxok = false)

/-- Who writes what (R60, R157, R213, R263): the snapshot changes only by a DECODE that passes its preconditions, a WRF
or a reset; RX only by RXCLR, RXPUSH or a reset; TX only by TXCLR, TXPUT, WRAP, QUERY, ENCODE, ENCRT or a reset. So no
command moves bytes between the buffers, and no failing command changes the snapshot. -/
def Obligations.EachRegisterFileHasOnlyItsWriters : Prop :=
  ∀ (i : Instr) (s t : State), exec i s = .next t →
    (t.ds ≠ s.ds → t.err = .ok ∧ ((i = .decode ∧ DecodeReady s) ∨ (∃ f v, i = .wrf f v) ∨ i = .srst))
    ∧ (i ≠ .rxclr → (∀ b, i ≠ .rxpush b) → i ≠ .srst → t.rx = s.rx ∧ t.rxlen = s.rxlen)
    ∧ (i ≠ .txclr → (∀ a b, i ≠ .txput a b) → ¬ ProducesFrame i → i ≠ .srst → t.tx = s.tx ∧ t.txlen = s.txlen)

/-! ### Flows -/

/-- The receive flow (R106 RECV, R331): a well-formed status frame received byte for byte, validated and decoded, makes the
snapshot valid, whatever state it starts from. -/
def Obligations.ReceiveFlowMakesTheSnapshotValid : Prop :=
  ∀ (m : Memory) (n : Nat) (s : State), WellFramed m n → 51 ≤ n →
    (m.read 3 = 0x31#8 ∨ m.read 3 = 0x32#8) →
    ∃ u, runAll (pseudoRecv (frameBytes m n)) s = .next u
      ∧ u.ds.valid = 1 ∧ u.rxok = true ∧ u.err = .ok ∧ u.rxlen.val = n
      ∧ u.ds.isOn.toNat = (m.read 8).toNat / 128 ∧ u.ds.mode.toNat = (m.read 8).toNat / 16 % 8
      ∧ (∀ g ∈ Field.mapped, (u.ds.get g).toNat = extract m (Config.machine.params.fieldMap g))
      ∧ u.tx = s.tx ∧ u.txlen = s.txlen

/-- The send flow (R106 SEND): a payload of 1 to 58 bytes staged and wrapped is offered as a well-formed frame around that
payload, whatever state it starts from. -/
def Obligations.SendFlowOffersThePayloadFramed : Prop :=
  ∀ (type : Byte) (payload : List Byte) (s : State), payload ≠ [] → payload.length ≤ 58 →
    ∃ u, runAll (pseudoSend type payload) s = .next u
      ∧ u.err = .ok ∧ u.txlen.val = payload.length + 5 ∧ WellFramed u.tx (payload.length + 5)
      ∧ u.tx.read 3 = type
      ∧ (∀ (k : Nat) (h : k < payload.length), u.tx.read (4 + k) = payload[k])
      ∧ u.rx = s.rx ∧ u.rxlen = s.rxlen ∧ u.rxok = s.rxok ∧ u.ds = s.ds
end

