-- ==== Sys2Proof/Laws/Memory.lean ====
section
/-! SUPPORT. The laws of a byte buffer: what a read gives after a write, that every operation keeps the canonical form,
and that buffers in canonical form with the same bytes are equal. -/

namespace Sys2Proof.Machine

theorem Memory.read_nil (a : Nat) : Memory.read [] a = unlistedByte := rfl

theorem Memory.read_zero (a : Nat) : Memory.zero.read a = unlistedByte := rfl

theorem Memory.read_cons (k : Nat) (v : Byte) (m : Memory) (a : Nat) :
    Memory.read ((k, v) :: m) a = if k = a then v else Memory.read m a := rfl

theorem Memory.erase_cons (k : Nat) (v : Byte) (m : Memory) (a : Nat) :
    Memory.erase ((k, v) :: m) a = if k = a then Memory.erase m a else (k, v) :: Memory.erase m a := by
  by_cases h : k = a <;> simp [Memory.erase, h]

theorem Memory.read_erase (m : Memory) (a x : Nat) :
    (m.erase a).read x = if x = a then unlistedByte else m.read x := by
  induction m with
  | nil => simp [Memory.erase, Memory.read]
  | cons c m ih =>
    obtain ⟨k, v⟩ := c
    rw [Memory.erase_cons]
    by_cases hk : k = a
    · rw [if_pos hk, ih, Memory.read_cons]
      by_cases hx : x = a
      · simp [hx]
      · rw [if_neg hx, if_neg hx, if_neg (by omega)]
    · rw [if_neg hk, Memory.read_cons, Memory.read_cons, ih]
      by_cases hx : x = a
      · simp [hx, hk]
      · simp [hx]

theorem Memory.read_insert (m : Memory) (a : Nat) (b : Byte) (x : Nat)
    (h : ∀ c ∈ m, c.1 ≠ a) : (Memory.insert m a b).read x = if x = a then b else m.read x := by
  induction m with
  | nil => simp [Memory.insert, Memory.read, eq_comm]
  | cons c m ih =>
    obtain ⟨k, v⟩ := c
    have hk : k ≠ a := h (k, v) (by simp)
    unfold Memory.insert
    split
    · simp [Memory.read, eq_comm]
    · rw [Memory.read_cons, Memory.read_cons, ih fun c hc => h c (by simp [hc])]
      by_cases hx : x = a
      · simp [hx, hk]
      · simp [hx]

theorem Memory.erase_ne (m : Memory) (a : Nat) : ∀ c ∈ m.erase a, c.1 ≠ a := by
  intro c hc
  simp only [Memory.erase, List.mem_filter, bne_iff_ne] at hc
  exact hc.2

/-- Read after write: the byte written where it was written, and every other byte as before. -/
theorem Memory.read_write (m : Memory) (a : Nat) (b : Byte) (x : Nat) :
    (m.write a b).read x = if x = a then b else m.read x := by
  unfold Memory.write
  split
  · rename_i hb
    rw [Memory.read_erase, hb]
  · rw [Memory.read_insert _ _ _ _ (m.erase_ne a), Memory.read_erase]
    by_cases hx : x = a <;> simp [hx]

theorem Memory.read_write_same (m : Memory) (a : Nat) (b : Byte) : (m.write a b).read a = b := by
  simp [Memory.read_write]

theorem Memory.read_write_other (m : Memory) (a : Nat) (b : Byte) {x : Nat} (h : x ≠ a) :
    (m.write a b).read x = m.read x := by
  simp [Memory.read_write, h]

/-! ### The canonical form -/

/-- The canonical form, as a property of the list. -/
theorem Memory.wf_iff (m : Memory) :
    m.wf = true ↔ m.Pairwise (fun c d => c.1 < d.1) ∧ ∀ c ∈ m, c.1 < bufferCap ∧ c.2 ≠ unlistedByte := by
  have hs : ∀ m : Memory, m.sorted = true ↔ m.Pairwise fun c d => c.1 < d.1 := by
    intro m
    induction m with
    | nil => simp [Memory.sorted]
    | cons c m ih =>
      cases m with
      | nil => simp [Memory.sorted]
      | cons d m =>
        rw [Memory.sorted, Bool.and_eq_true, ih, List.pairwise_cons (l := d :: m)]
        constructor
        · rintro ⟨h1, h2⟩
          have h1 := of_decide_eq_true h1
          refine ⟨fun x hx => ?_, h2⟩
          rcases List.mem_cons.1 hx with rfl | hx
          · exact h1
          · exact lt_trans h1 ((List.pairwise_cons.1 h2).1 x hx)
        · rintro ⟨h1, h2⟩
          exact ⟨decide_eq_true (h1 d (by simp)), h2⟩
  rw [Memory.wf, Bool.and_eq_true, hs]
  simp [List.all_eq_true]

theorem Memory.zero_wf : Memory.zero.wf = true := rfl

theorem Memory.pairwise_insert (m : Memory) (a : Nat) (b : Byte)
    (h : m.Pairwise fun c d => c.1 < d.1) (ha : ∀ c ∈ m, c.1 ≠ a) :
    (Memory.insert m a b).Pairwise fun c d => c.1 < d.1 := by
  induction m with
  | nil => simp [Memory.insert]
  | cons c m ih =>
    rw [List.pairwise_cons] at h
    unfold Memory.insert
    split
    · rename_i hlt
      refine List.pairwise_cons.2 ⟨fun d hd => ?_, List.pairwise_cons.2 h⟩
      rcases List.mem_cons.1 hd with rfl | hd
      · exact hlt
      · exact lt_trans hlt (h.1 d hd)
    · rename_i hlt
      refine List.pairwise_cons.2 ⟨fun d hd => ?_, ih h.2 fun c hc => ha c (by simp [hc])⟩
      have hca : c.1 < a := lt_of_le_of_ne (not_lt.1 hlt) (ha c (by simp))
      have : d = (a, b) ∨ d ∈ m := by
        clear ih ha hca hlt h
        induction m with
        | nil => simpa [Memory.insert] using hd
        | cons e m ih =>
          unfold Memory.insert at hd
          split at hd
          · simpa using hd
          · rcases List.mem_cons.1 hd with rfl | hd
            · simp
            · rcases ih hd with h | h
              · exact .inl h
              · exact .inr (List.mem_cons_of_mem _ h)
      rcases this with rfl | hd
      · exact hca
      · exact h.1 d hd

theorem Memory.mem_insert (m : Memory) (a : Nat) (b : Byte) (c : Host.Cell) :
    c ∈ Memory.insert m a b ↔ c = (a, b) ∨ c ∈ m := by
  induction m with
  | nil => simp [Memory.insert]
  | cons d m ih =>
    unfold Memory.insert
    split
    · simp
    · rw [List.mem_cons, ih, List.mem_cons]
      tauto

/-- A write inside the buffer keeps the canonical form. -/
theorem Memory.write_wf {m : Memory} (h : m.wf = true) {a : Nat} (ha : a < bufferCap) (b : Byte) :
    (m.write a b).wf = true := by
  rw [Memory.wf_iff] at h
  have he : (m.erase a).Pairwise (fun c d => c.1 < d.1) := h.1.filter _
  have hm : ∀ c ∈ m.erase a, c.1 < bufferCap ∧ c.2 ≠ unlistedByte := fun c hc =>
    h.2 c (List.mem_of_mem_filter hc)
  rw [Memory.wf_iff]
  unfold Memory.write
  split
  · exact ⟨he, hm⟩
  · rename_i hb
    refine ⟨Memory.pairwise_insert _ _ _ he (m.erase_ne a), fun c hc => ?_⟩
    rcases (Memory.mem_insert _ _ _ _).1 hc with rfl | hc
    · exact ⟨ha, hb⟩
    · exact hm c hc

/-- A byte beyond the buffer reads as an unlisted one. -/
theorem Memory.read_of_not_listed (m : Memory) (a : Nat) (h : ∀ c ∈ m, c.1 ≠ a) :
    m.read a = unlistedByte := by
  induction m with
  | nil => rfl
  | cons c m ih =>
    obtain ⟨k, v⟩ := c
    rw [Memory.read_cons, if_neg (h (k, v) (by simp)), ih fun c hc => h c (by simp [hc])]

theorem Memory.read_beyond {m : Memory} (h : m.wf = true) {a : Nat} (ha : bufferCap ≤ a) :
    m.read a = unlistedByte :=
  m.read_of_not_listed a fun c hc => by
    have := (((Memory.wf_iff m).1 h).2 c hc).1
    omega

/-- Buffers in canonical form with the same bytes are the same list. -/
theorem Memory.eq_of_read_eq {m m' : Memory} (h : m.wf = true) (h' : m'.wf = true)
    (hr : ∀ a, m.read a = m'.read a) : m = m' := by
  rw [Memory.wf_iff] at h h'
  induction m generalizing m' with
  | nil =>
    cases m' with
    | nil => rfl
    | cons c m' =>
      obtain ⟨k, v⟩ := c
      have := hr k
      rw [Memory.read_cons, if_pos rfl] at this
      exact absurd this.symm (h'.2 (k, v) (by simp)).2
  | cons c m ih =>
    obtain ⟨k, v⟩ := c
    have hv : v ≠ unlistedByte := (h.2 (k, v) (by simp)).2
    have hk := (List.pairwise_cons.1 h.1).1
    cases m' with
    | nil =>
      have := hr k
      rw [Memory.read_cons, if_pos rfl] at this
      exact absurd this hv
    | cons c' m' =>
      obtain ⟨k', v'⟩ := c'
      have hv' : v' ≠ unlistedByte := (h'.2 (k', v') (by simp)).2
      have hk' := (List.pairwise_cons.1 h'.1).1
      have hkk : k = k' := by
        rcases lt_trichotomy k k' with hlt | heq | hgt
        · have := hr k
          rw [Memory.read_cons, if_pos rfl, Memory.read_cons, if_neg (by omega),
            Memory.read_of_not_listed m' k fun c hc => by have := hk' c hc; simp at this; omega] at this
          exact absurd this hv
        · exact heq
        · have := hr k'
          rw [Memory.read_cons (k := k'), if_pos rfl, Memory.read_cons, if_neg (by omega),
            Memory.read_of_not_listed m k' fun c hc => by have := hk c hc; simp at this; omega] at this
          exact absurd this.symm hv'
      subst hkk
      have hvv : v = v' := by
        have := hr k
        rwa [Memory.read_cons, if_pos rfl, Memory.read_cons, if_pos rfl] at this
      subst hvv
      have : m = m' := by
        refine ih ⟨(List.pairwise_cons.1 h.1).2, fun c hc => h.2 c (by simp [hc])⟩
          ⟨(List.pairwise_cons.1 h'.1).2, fun c hc => h'.2 c (by simp [hc])⟩ fun a => ?_
        by_cases ha : k = a
        · subst ha
          rw [Memory.read_of_not_listed m k fun c hc => by have := hk c hc; simp at this; omega,
            Memory.read_of_not_listed m' k fun c hc => by have := hk' c hc; simp at this; omega]
        · have := hr a
          rwa [Memory.read_cons, if_neg ha, Memory.read_cons, if_neg ha] at this
      rw [this]

end Sys2Proof.Machine
end

