-- ==== Sys2Proof/Laws/Bits.lean ====
section
/-! SUPPORT. The laws of bit fields: which bits `slice`, `setSlice`, `extract` and `insertBits` read and write; what is
inserted is what is extracted, and fields on different bits do not meet. -/

namespace Sys2Proof.Machine

/-- A segment inside one byte, the part of R72(a) the laws below need. -/
abbrev Seg.inByte (s : Seg) : Prop := s.lo ≤ s.hi ∧ s.hi ≤ 7

theorem slice_testBit (b : Byte) (hi lo i : Nat) :
    (slice b hi lo).testBit i = (decide (i < hi + 1 - lo) && b.getLsbD (lo + i)) := by
  simp [slice, Nat.testBit_mod_two_pow, Nat.testBit_div_two_pow, BitVec.getLsbD, Nat.add_comm]

theorem slice_lt (b : Byte) (hi lo : Nat) : slice b hi lo < 2 ^ (hi + 1 - lo) :=
  Nat.mod_lt _ (Nat.two_pow_pos _)

theorem setSlice_getLsbD (b : Byte) {hi lo : Nat} (h : hi ≤ 7) (v i : Nat) :
    (setSlice b hi lo v).getLsbD i = if lo ≤ i ∧ i ≤ hi then v.testBit (i - lo) else b.getLsbD i := by
  by_cases hi8 : i < 8
  · simp only [setSlice, BitVec.getLsbD_or, BitVec.getLsbD_and, BitVec.getLsbD_not,
      BitVec.getLsbD_ofNat, hi8, decide_true, Bool.true_and, Nat.testBit_shiftLeft,
      Nat.testBit_two_pow_sub_one]
    by_cases h1 : lo ≤ i
    · by_cases h2 : i ≤ hi
      · have : i - lo < hi + 1 - lo := by omega
        simp [h1, h2, this]
      · have : ¬ i - lo < hi + 1 - lo := by omega
        simp [h1, h2, this]
    · simp [h1]
  · have h2 : ¬ (lo ≤ i ∧ i ≤ hi) := by omega
    rw [if_neg h2, BitVec.getLsbD_of_ge _ _ (by omega), BitVec.getLsbD_of_ge _ _ (by omega)]

/-- What is written into a slice is read back from it. -/
theorem slice_setSlice (b : Byte) {hi lo : Nat} (h : hi ≤ 7) (v : Nat) :
    slice (setSlice b hi lo v) hi lo = v % 2 ^ (hi + 1 - lo) := by
  apply Nat.eq_of_testBit_eq
  intro i
  rw [slice_testBit, setSlice_getLsbD b h, Nat.testBit_mod_two_pow]
  by_cases hi' : i < hi + 1 - lo
  · have : lo + i ≤ hi := by omega
    simp [hi', this]
  · simp [hi']

/-- A slice is a function of the bits it covers. -/
theorem slice_congr {b c : Byte} {hi lo : Nat} (h : ∀ i, i < hi + 1 - lo → b.getLsbD (lo + i) = c.getLsbD (lo + i)) :
    slice b hi lo = slice c hi lo := by
  apply Nat.eq_of_testBit_eq
  intro i
  rw [slice_testBit, slice_testBit]
  by_cases hi' : i < hi + 1 - lo
  · rw [h i hi']
  · simp [hi']

theorem frameBit_cellOf (f : Memory) {byte bit : Nat} (h : bit ≤ 7) :
    frameBit f (cellOf byte bit) = (f.read byte).getLsbD bit := by
  have h1 : (8 * byte + bit) / 8 = byte := by omega
  have h2 : (8 * byte + bit) % 8 = bit := by omega
  simp [frameBit, cellOf, h1, h2]

/-- Buffers whose bits agree have the same bytes. -/
theorem read_eq_of_frameBit {f g : Memory} {a : Nat}
    (h : ∀ k, k < 8 → frameBit f (cellOf a k) = frameBit g (cellOf a k)) : f.read a = g.read a := by
  apply BitVec.eq_of_getLsbD_eq
  intro k hk
  have := h k hk
  rwa [frameBit_cellOf f (by omega), frameBit_cellOf g (by omega)] at this

theorem Seg.mem_cells (s : Seg) (cell : Nat) :
    cell ∈ s.cells ↔ ∃ k, s.lo ≤ k ∧ k ≤ s.hi ∧ cell = cellOf s.byte k := by
  simp only [Seg.cells, Seg.width, List.mem_map, List.mem_range]
  constructor
  · rintro ⟨i, hi, rfl⟩
    exact ⟨s.lo + i, by omega, by omega, rfl⟩
  · rintro ⟨k, h1, h2, rfl⟩
    exact ⟨k - s.lo, by omega, by congr 1; omega⟩

theorem mem_segsCells (segs : List Seg) (cell : Nat) :
    cell ∈ segsCells segs ↔ ∃ s ∈ segs, cell ∈ s.cells := by
  simp [segsCells]

/-- The bit of a buffer after a segment of one byte is written. -/
theorem frameBit_write_setSlice (t : Memory) (s : Seg) (h : s.hi ≤ 7) (v cell : Nat) :
    frameBit (t.write s.byte (setSlice (t.read s.byte) s.hi s.lo v)) cell =
      if cell ∈ s.cells then v.testBit (cell % 8 - s.lo) else frameBit t cell := by
  by_cases hb : cell / 8 = s.byte
  · have hc : cell ∈ s.cells ↔ s.lo ≤ cell % 8 ∧ cell % 8 ≤ s.hi := by
      rw [Seg.mem_cells]
      constructor
      · rintro ⟨k, h1, h2, rfl⟩
        have : (8 * s.byte + k) % 8 = k := by omega
        simp only [cellOf, this]
        exact ⟨h1, h2⟩
      · rintro ⟨h1, h2⟩
        exact ⟨cell % 8, h1, h2, by simp only [cellOf]; omega⟩
    simp only [frameBit, hb, Memory.read_write_same, setSlice_getLsbD _ h, hc]
  · have hc : cell ∉ s.cells := by
      rw [Seg.mem_cells]
      rintro ⟨k, h1, h2, rfl⟩
      exact hb (by simp only [cellOf]; omega)
    simp only [frameBit, Memory.read_write_other _ _ _ hb, if_neg hc]

/-- `insertBits` leaves every bit outside its segments. -/
theorem frameBit_insertBits_outside (t : Memory) (segs : List Seg) (h : ∀ s ∈ segs, s.hi ≤ 7) (v cell : Nat)
    (hc : cell ∉ segsCells segs) : frameBit (insertBits t segs v) cell = frameBit t cell := by
  induction segs generalizing t with
  | nil => rfl
  | cons s rest ih =>
    simp only [segsCells, List.flatMap_cons, List.mem_append, not_or] at hc
    rw [insertBits, ih _ (fun s' hs' => h s' (by simp [hs'])) hc.2,
      frameBit_write_setSlice _ _ (h s (by simp)), if_neg hc.1]

/-- `insertBits` leaves every byte no segment names. -/
theorem read_insertBits_outside (t : Memory) (segs : List Seg) (v a : Nat) (ha : ∀ s ∈ segs, s.byte ≠ a) :
    (insertBits t segs v).read a = t.read a := by
  induction segs generalizing t with
  | nil => rfl
  | cons s rest ih =>
    rw [insertBits, ih _ fun s' hs' => ha s' (by simp [hs']),
      Memory.read_write_other _ _ _ (ha s (by simp)).symm]

/-- `insertBits` keeps the canonical form. -/
theorem insertBits_wf (t : Memory) (segs : List Seg) (v : Nat) (h : ∀ s ∈ segs, s.byte < bufferCap)
    (ht : t.wf = true) : (insertBits t segs v).wf = true := by
  induction segs generalizing t with
  | nil => exact ht
  | cons s rest ih =>
    exact ih _ (fun s' hs' => h s' (by simp [hs'])) (Memory.write_wf ht (h s (by simp)) _)

theorem extract_lt (f : Memory) (segs : List Seg) : extract f segs < 2 ^ segsWidth segs := by
  induction segs with
  | nil => simp [extract, segsWidth]
  | cons s rest ih =>
    have h1 := slice_lt (f.read s.byte) s.hi s.lo
    simp only [extract, segsWidth, Seg.width]
    rw [Nat.pow_add]
    calc slice (f.read s.byte) s.hi s.lo * 2 ^ segsWidth rest + extract f rest
        < slice (f.read s.byte) s.hi s.lo * 2 ^ segsWidth rest + 2 ^ segsWidth rest := by omega
      _ = (slice (f.read s.byte) s.hi s.lo + 1) * 2 ^ segsWidth rest := by ring
      _ ≤ 2 ^ (s.hi + 1 - s.lo) * 2 ^ segsWidth rest := Nat.mul_le_mul_right _ h1

/-- `extract` is a function of the bits its segments cover. -/
theorem extract_congr {f g : Memory} (segs : List Seg) (h : ∀ s ∈ segs, s.hi ≤ 7)
    (hb : ∀ cell ∈ segsCells segs, frameBit f cell = frameBit g cell) : extract f segs = extract g segs := by
  induction segs with
  | nil => rfl
  | cons s rest ih =>
    have hs := h s (by simp)
    rw [extract, extract, ih (fun s' hs' => h s' (by simp [hs'])) fun cell hc => hb cell (by
      simp only [segsCells, List.flatMap_cons, List.mem_append]
      exact .inr hc)]
    rw [slice_congr fun i hi => ?_]
    have := hb (cellOf s.byte (s.lo + i)) (by
      simp only [segsCells, List.flatMap_cons, List.mem_append]
      exact .inl ((Seg.mem_cells _ _).2 ⟨s.lo + i, by omega, by omega, rfl⟩))
    rwa [frameBit_cellOf f (by omega), frameBit_cellOf g (by omega)] at this

/-- What is inserted into segments that do not overlap is extracted from them. -/
theorem extract_insertBits (t : Memory) (segs : List Seg) (h : ∀ s ∈ segs, s.hi ≤ 7)
    (hn : (segsCells segs).Nodup) (v : Nat) :
    extract (insertBits t segs v) segs = v % 2 ^ segsWidth segs := by
  induction segs generalizing t with
  | nil => simp [extract, segsWidth, Nat.mod_one]
  | cons s rest ih =>
    have hs := h s (by simp)
    have hr : ∀ s' ∈ rest, s'.hi ≤ 7 := fun s' hs' => h s' (by simp [hs'])
    simp only [segsCells, List.flatMap_cons] at hn
    have hn' := List.nodup_append.1 hn
    rw [insertBits, extract, ih _ hr hn'.2.1]
    have hslice : slice ((insertBits (t.write s.byte (setSlice (t.read s.byte) s.hi s.lo (v / 2 ^ segsWidth rest)))
        rest v).read s.byte) s.hi s.lo = (v / 2 ^ segsWidth rest) % 2 ^ s.width := by
      rw [Seg.width, ← slice_setSlice (t.read s.byte) hs (v / 2 ^ segsWidth rest)]
      refine slice_congr fun i hi => ?_
      have hcell : cellOf s.byte (s.lo + i) ∈ s.cells :=
        (Seg.mem_cells _ _).2 ⟨s.lo + i, by omega, by omega, rfl⟩
      have hout := frameBit_insertBits_outside
        (t.write s.byte (setSlice (t.read s.byte) s.hi s.lo (v / 2 ^ segsWidth rest))) rest hr v
        (cellOf s.byte (s.lo + i)) fun hc => hn'.2.2 _ hcell _ hc rfl
      rwa [frameBit_cellOf _ (by omega), frameBit_cellOf _ (by omega), Memory.read_write_same] at hout
    rw [hslice, segsWidth, Nat.add_comm s.width, Nat.pow_add]
    generalize 2 ^ segsWidth rest = p
    generalize 2 ^ s.width = q
    rw [Nat.mod_mul]
    ring

end Sys2Proof.Machine
end

