-- ==== Sys2Proof/Laws/Config.lean ====
section
/-! SUPPORT. What the legality of the OPEN parameters gives: the conditions of spec/20_memory.md R72 to R76, one lemma per
condition, and that no two positions of a frame share a bit. -/

namespace Sys2Proof

/-- The checks of `Params.wf`, one by one. -/
theorem Config.checks (c : Config) :
    c.params.segmentsWf = true ∧ c.params.widthsAgree = true ∧ c.params.openWidthsWf = true
      ∧ c.params.intentBaseWf = true ∧ c.params.sleepWf = true ∧ c.params.swingWf = true
      ∧ c.params.disjoint = true := by
  have h := c.legal
  simp only [Params.wf, Bool.and_eq_true] at h
  tauto

theorem Seg.wf_iff (s : Seg) : s.wf = true ↔ s.lo ≤ s.hi ∧ s.hi ≤ 7 ∧ 5 ≤ s.byte ∧ s.byte ≤ 38 := by
  unfold Seg.wf firstMapByte lastMapByte
  rw [Bool.and_eq_true, Bool.and_eq_true, Bool.and_eq_true, decide_eq_true_iff, decide_eq_true_iff,
    decide_eq_true_iff, decide_eq_true_iff, and_assoc, and_assoc]

/-- R72(a), (b): a FIELD_MAP segment lies in one byte, and the byte is one of 5..38. -/
theorem Config.mapped_seg (c : Config) {g : Field} (hg : g ∈ Field.mapped) {s : Seg} (hs : s ∈ c.fieldMap g) :
    s.lo ≤ s.hi ∧ s.hi ≤ 7 ∧ 5 ≤ s.byte ∧ s.byte ≤ 38 := by
  have h := c.checks.1
  simp only [Params.segmentsWf, List.all_eq_true] at h
  exact (Seg.wf_iff s).1 (h g hg s hs)

theorem Config.mapped_hi (c : Config) {g : Field} (hg : g ∈ Field.mapped) : ∀ s ∈ c.fieldMap g, s.hi ≤ 7 :=
  fun _ hs => (c.mapped_seg hg hs).2.1

/-- R72(c): a FIELD_MAP field has the width its register or its OPEN width asks for. -/
theorem Config.mapped_width (c : Config) {g : Field} (hg : g ∈ Field.mapped) :
    segsWidth (c.fieldMap g) = c.params.wireWidth g := by
  have h := c.checks.2.1
  simp only [Params.widthsAgree, List.all_eq_true, beq_iff_eq] at h
  exact h g hg

/-- R72(c): the OPEN widths. -/
theorem Config.open_widths (c : Config) :
    (1 ≤ c.params.wHa ∧ c.params.wHa ≤ 8) ∧ (1 ≤ c.params.wRemote ∧ c.params.wRemote ≤ 8)
      ∧ (1 ≤ c.params.wNoise ∧ c.params.wNoise ≤ 8) ∧ (1 ≤ c.params.wCurve ∧ c.params.wCurve ≤ 8)
      ∧ (1 ≤ c.params.wScclock ∧ c.params.wScclock ≤ 16) := by
  have h := c.checks.2.2.1
  simp only [Params.openWidthsWf, decide_eq_true_eq] at h
  omega

/-- R72(c): no wire width is wider than its register. -/
theorem Config.wireWidth_le (c : Config) (g : Field) : c.params.wireWidth g ≤ g.width := by
  have h := c.open_widths
  cases g <;> simp only [Params.wireWidth, Field.width] <;> omega

theorem Field.width_le (g : Field) : g.width ≤ 16 := by
  cases g <;> simp [Field.width]

/-- R254: INTENT_BASE has bits 1 and 6 clear. -/
theorem Config.intent_base (c : Config) :
    c.params.intentBase.getLsbD 1 = false ∧ c.params.intentBase.getLsbD 6 = false := by
  have h := c.checks.2.2.2.1
  simpa [Params.intentBaseWf] using h

/-- R74: the places of the sleep-curve index bits. -/
theorem Config.sleep_bits (c : Config) : c.params.sleepB8 ≤ 3 ∧ c.params.sleepB20 ≤ 6 := by
  have h := c.checks.2.2.2.2.1
  simp [Params.sleepWf] at h
  omega

theorem Config.sleep_hi (c : Config) : ∀ s ∈ c.params.sleepIndex, s.lo ≤ s.hi ∧ s.hi ≤ 7 ∧ (s.byte = 8 ∨ s.byte = 20) := by
  have h := c.sleep_bits
  unfold Params.sleepIndex
  intro s hs
  split at hs <;> simp [Params.sleepSeg8, Params.sleepSeg20] at hs <;> rcases hs with rfl | rfl <;> simp <;> omega

theorem Config.sleep_width (c : Config) : segsWidth c.params.sleepIndex = 2 := by
  unfold Params.sleepIndex
  split <;> simp [segsWidth, Seg.width, Params.sleepSeg8, Params.sleepSeg20]

/-- R75: the swing position byte and its spill bit. -/
theorem Config.swing (c : Config) :
    (5 ≤ c.params.swingByte ∧ c.params.swingByte ≤ 38)
      ∧ (5 ≤ c.params.swingSpillByte ∧ c.params.swingSpillByte ≤ 38 ∧ c.params.swingSpillBit ≤ 7)
      ∧ c.params.swingSpillByte ≠ c.params.swingByte := by
  have h := c.checks.2.2.2.2.2.1
  simp [Params.swingWf, Params.swingPosition, Params.swingSpill, Seg.wf_iff] at h
  omega

/-- R72(d): no bit of a frame is covered twice. -/
theorem Config.nodup (c : Config) : c.params.coveredCells.Nodup := by
  have h := c.checks.2.2.2.2.2.2
  simpa [Params.disjoint] using h

/-- R72(d), part by part: each kind of position covers its bits once. -/
theorem Config.nodup_parts (c : Config) :
    (segsCells Wire.stated).Nodup ∧ (segsCells c.params.sleepIndex).Nodup
      ∧ (segsCells c.params.swingPosition).Nodup ∧ (segsCells c.params.swingSpill).Nodup
      ∧ c.params.pass27Cells.Nodup
      ∧ (Field.mapped.flatMap fun g => segsCells (c.params.fieldMap g)).Nodup := by
  have h := c.nodup
  simp only [Params.coveredCells, List.nodup_append] at h
  tauto

/-- R72(d), between the kinds of positions: no two share a bit. -/
theorem Config.disjoint_parts (c : Config) :
    let mapped := Field.mapped.flatMap fun g => segsCells (c.params.fieldMap g)
    ((segsCells Wire.stated).Disjoint (segsCells c.params.sleepIndex)
      ∧ (segsCells Wire.stated).Disjoint (segsCells c.params.swingPosition)
      ∧ (segsCells Wire.stated).Disjoint (segsCells c.params.swingSpill)
      ∧ (segsCells Wire.stated).Disjoint c.params.pass27Cells
      ∧ (segsCells Wire.stated).Disjoint mapped)
    ∧ ((segsCells c.params.sleepIndex).Disjoint (segsCells c.params.swingPosition)
      ∧ (segsCells c.params.sleepIndex).Disjoint (segsCells c.params.swingSpill)
      ∧ (segsCells c.params.sleepIndex).Disjoint c.params.pass27Cells
      ∧ (segsCells c.params.sleepIndex).Disjoint mapped)
    ∧ ((segsCells c.params.swingPosition).Disjoint (segsCells c.params.swingSpill)
      ∧ (segsCells c.params.swingPosition).Disjoint c.params.pass27Cells
      ∧ (segsCells c.params.swingPosition).Disjoint mapped)
    ∧ ((segsCells c.params.swingSpill).Disjoint c.params.pass27Cells
      ∧ (segsCells c.params.swingSpill).Disjoint mapped)
    ∧ c.params.pass27Cells.Disjoint mapped := by
  have h := c.nodup
  simp only [Params.coveredCells, List.nodup_append', List.disjoint_append_left] at h
  tauto

/-- The bits of one FIELD_MAP field are covered once. -/
theorem Config.mapped_nodup (c : Config) {g : Field} (hg : g ∈ Field.mapped) : (segsCells (c.fieldMap g)).Nodup :=
  (List.nodup_flatMap.1 c.nodup_parts.2.2.2.2.2).1 g hg

/-- Two FIELD_MAP fields share no bit. -/
theorem Config.mapped_disjoint (c : Config) {g g' : Field} (hg : g ∈ Field.mapped) (hg' : g' ∈ Field.mapped)
    (hne : g ≠ g') : (segsCells (c.fieldMap g)).Disjoint (segsCells (c.fieldMap g')) := by
  have hp : ∀ l : List Field, l.Pairwise (fun a b => (segsCells (c.fieldMap a)).Disjoint (segsCells (c.fieldMap b))) →
      g ∈ l → g' ∈ l → (segsCells (c.fieldMap g)).Disjoint (segsCells (c.fieldMap g')) := by
    intro l
    induction l with
    | nil => intro _ h; simp at h
    | cons a l ih =>
      intro hl h h'
      rw [List.pairwise_cons] at hl
      rcases List.mem_cons.1 h with e | k
      · rcases List.mem_cons.1 h' with e' | k'
        · exact absurd (e.trans e'.symm) hne
        · exact e ▸ hl.1 _ k'
      · rcases List.mem_cons.1 h' with e' | k'
        · exact e' ▸ (hl.1 _ k).symm
        · exact ih hl.2 k k'
  exact hp _ (List.nodup_flatMap.1 c.nodup_parts.2.2.2.2.2).2 hg hg'

theorem Config.mem_mapped (c : Config) {g : Field} (hg : g ∈ Field.mapped) {cell : Nat}
    (h : cell ∈ segsCells (c.fieldMap g)) : cell ∈ Field.mapped.flatMap fun g => segsCells (c.params.fieldMap g) :=
  List.mem_flatMap.2 ⟨g, hg, h⟩

theorem Field.mapped_nodup : Field.mapped.Nodup := by decide

end Sys2Proof
end

