-- ==== Sys2Proof/Laws/Encoding.lean ====
section
/-! SUPPORT. The fields of a command word are what `cmdWord` was given. -/

namespace Sys2Proof

theorem opOf_cmdWord (op a : Byte) (b : Half) : opOf (cmdWord op a b) = op := by
  apply BitVec.eq_of_getLsbD_eq
  intro i hi
  have h1 : ¬ 24 + i < 16 := by omega
  have h2 : ¬ 24 + i - 16 < 8 := by omega
  have h3 : 24 + i - 16 - 8 = i := by omega
  simp only [opOf, cmdWord, BitVec.getLsbD_extractLsb', BitVec.getLsbD_append, hi, decide_true, Bool.true_and, h1, h2,
    if_false, h3]

theorem aOf_cmdWord (op a : Byte) (b : Half) : aOf (cmdWord op a b) = a := by
  apply BitVec.eq_of_getLsbD_eq
  intro i hi
  have h1 : ¬ 16 + i < 16 := by omega
  have h3 : 16 + i - 16 = i := by omega
  simp only [aOf, cmdWord, BitVec.getLsbD_extractLsb', BitVec.getLsbD_append, hi, decide_true, Bool.true_and, h1,
    if_false, if_true, h3]

theorem bOf_cmdWord (op a : Byte) (b : Half) : bOf (cmdWord op a b) = b := by
  apply BitVec.eq_of_getLsbD_eq
  intro i hi
  simp only [bOf, cmdWord, BitVec.getLsbD_extractLsb', BitVec.getLsbD_append, Nat.zero_add, hi, decide_true,
    Bool.true_and, if_true]

/-- b8 is the low byte of B, whatever the word. -/
theorem b8Of_eq (w : Word) : b8Of w = (bOf w).setWidth 8 := by
  apply BitVec.eq_of_getLsbD_eq
  intro i hi
  have : i < 16 := by omega
  simp [b8Of, bOf, hi, this]

/-- flag is bit 0 of A, whatever the word. -/
theorem flagOf_eq (w : Word) : flagOf w = (aOf w).setWidth 1 := by
  apply BitVec.eq_of_getLsbD_eq
  intro i hi
  have : i < 8 := by omega
  simp [flagOf, aOf, hi, this]

end Sys2Proof
end

