-- ==== Sys2Proof/Laws/Fields.lean ====
section
/-! SUPPORT. The laws of the field-register file: reading after a write, ids, and the lists of FIELD_MAP fields that
DECODE and ENCODE run over. -/

namespace Sys2Proof.Machine

/-- A field register holds no more bits than its width. -/
theorem DeviceState.get_lt (d : DeviceState) (f : Field) : (d.get f).toNat < 2 ^ f.width := by
  cases f <;> simp only [DeviceState.get, Field.width] <;>
    first
    | exact BitVec.isLt _
    | exact (BitVec.toNat_setWidth _ _).trans_lt ((Nat.mod_le _ _).trans_lt (BitVec.isLt _))

/-- Read after write: the register keeps the bits it has room for. -/
theorem DeviceState.get_set_same (d : DeviceState) (f : Field) (v : Half) :
    ((d.set f v).get f).toNat = v.toNat % 2 ^ f.width := by
  have hv := v.isLt
  cases f <;>
    simp only [DeviceState.get, DeviceState.set, Field.width, BitVec.toNat_setWidth, Vector.getElem_set_self] <;>
    omega

/-- A write to one register leaves every other. -/
theorem DeviceState.get_set_other (d : DeviceState) {f g : Field} (v : Half) (h : g ≠ f) :
    (d.set f v).get g = d.get g := by
  cases f <;> cases g <;>
    first
    | rfl
    | exact absurd rfl h
    | (rename_i i j
       have hij : i.val ≠ j.val := fun e => h (by rw [Fin.ext e])
       simp only [DeviceState.get, DeviceState.set, Vector.getElem_set_ne _ _ hij])

/-- Every field register is named by its id. -/
theorem fieldOfId?_id (f : Field) : fieldOfId? f.id = some f := by
  cases f with
  | customSleepCurve k => revert k; decide
  | _ => decide

/-- The ids 0x38..0xFF name no register. -/
theorem fieldOfId?_none (a : Byte) (h : 0x38 ≤ a.toNat) : fieldOfId? a = none := by
  rw [fieldOfId?, List.find?_eq_none]
  intro f _ hf
  rw [beq_iff_eq] at hf
  subst hf
  revert h
  cases f with
  | customSleepCurve k => revert k; decide
  | _ => decide

/-- What an id names has that id. -/
theorem fieldOfId?_some {a : Byte} {f : Field} (h : fieldOfId? a = some f) : f.id = a := by
  simpa using List.find?_some h

/-- The FIELD_MAP fields after DECODE's loop over a list: each one of the list holds its extraction. -/
theorem decodeFields_get_mem (c : Config) (f : Memory) (l : List Field) (n : DeviceState) (hl : l.Nodup) {g : Field}
    (hg : g ∈ l) :
    ((decodeFields c f l n).get g).toNat = extract f (c.fieldMap g) % 2 ^ 16 % 2 ^ g.width := by
  induction l generalizing n with
  | nil => simp at hg
  | cons a rest ih =>
    rw [List.nodup_cons] at hl
    rw [decodeFields]
    rcases List.mem_cons.1 hg with rfl | hg'
    · have : ∀ (l : List Field) (m : DeviceState), g ∉ l → (decodeFields c f l m).get g = m.get g := by
        intro l
        induction l with
        | nil => intro m _; rfl
        | cons b l ih =>
          intro m hb
          simp only [List.mem_cons, not_or] at hb
          rw [decodeFields, ih _ hb.2, DeviceState.get_set_other _ _ hb.1]
      rw [this _ _ hl.1, DeviceState.get_set_same, BitVec.toNat_ofNat]
    · exact ih _ hl.2 hg'

/-- DECODE's loop leaves a field that is not in its list. -/
theorem decodeFields_get_not_mem (c : Config) (f : Memory) (l : List Field) (n : DeviceState) {g : Field}
    (hg : g ∉ l) : (decodeFields c f l n).get g = n.get g := by
  induction l generalizing n with
  | nil => rfl
  | cons b l ih =>
    simp only [List.mem_cons, not_or] at hg
    rw [decodeFields, ih _ hg.2, DeviceState.get_set_other _ _ hg.1]

/-- ENCODE's loop leaves a bit that no field of its list covers. -/
theorem frameBit_packFields_outside (c : Config) (s : DeviceState) (l : List Field) (hl : ∀ g ∈ l, g ∈ Field.mapped)
    (t : Memory) (cell : Nat) (h : ∀ g ∈ l, cell ∉ segsCells (c.fieldMap g)) :
    frameBit (packFields c s l t) cell = frameBit t cell := by
  induction l generalizing t with
  | nil => rfl
  | cons g rest ih =>
    rw [packFields, ih (fun g' hg' => hl g' (by simp [hg'])) _ fun g' hg' => h g' (by simp [hg']),
      frameBit_insertBits_outside _ _ (c.mapped_hi (hl g (by simp))) _ _ (h g (by simp))]

/-- After ENCODE's loop each field of its list is extracted as it was packed. -/
theorem extract_packFields (c : Config) (s : DeviceState) (l : List Field) (hl : ∀ g ∈ l, g ∈ Field.mapped)
    (hn : l.Nodup) (t : Memory) {g : Field} (hg : g ∈ l) :
    extract (packFields c s l t) (c.fieldMap g) = packedValue s g % 2 ^ c.params.wireWidth g := by
  induction l generalizing t with
  | nil => simp at hg
  | cons a rest ih =>
    have hr : ∀ g' ∈ rest, g' ∈ Field.mapped := fun g' hg' => hl g' (by simp [hg'])
    rw [List.nodup_cons] at hn
    rw [packFields]
    rcases List.mem_cons.1 hg with rfl | hg'
    · have hm := hl g (by simp)
      rw [← c.mapped_width hm, ← extract_insertBits t _ (c.mapped_hi hm) (c.mapped_nodup hm) (packedValue s g)]
      refine extract_congr _ (c.mapped_hi hm) fun cell hcell => ?_
      refine frameBit_packFields_outside c s rest hr _ cell fun g' hg' hc => ?_
      exact c.mapped_disjoint hm (hr g' hg') (fun e => hn.1 (e ▸ hg')) hcell hc
    · exact ih hr hn.2 _ hg'

end Sys2Proof.Machine
end

