-- ==== Sys2Proof/Laws/FrameLayer.lean ====
section
/-! SUPPORT. The laws of the frame layer: the machine's checksum is the spec's sum, and what writing a header or a checksum
byte changes. -/

namespace Sys2Proof.Machine

theorem hdrOk_iff (h0 h1 h2 : Byte) : hdrOk h0 h1 h2 = true ↔ h0 = 0x7E#8 ∧ h1 = 0x7E#8 ∧ h2.toNat ≤ 60 := by
  simp [hdrOk, and_assoc]

theorem sumBytes_eq (m : Memory) (start count : Nat) :
    sumBytes m start count = ∑ i ∈ Finset.Ico start (start + count), (m.read i).toNat := by
  induction count generalizing start with
  | zero => simp [sumBytes]
  | succ k ih =>
    rw [sumBytes, ih, Finset.sum_eq_sum_Ico_succ_bot (by omega : start < start + (k + 1))]
    congr 2
    congr 1
    omega

/-- The machine's checksum of n ≥ 4 bytes is the sum of R150. -/
theorem frameSum_toNat (m : Memory) {n : Nat} (h : 4 ≤ n) : (frameSum m n).toNat = byteSum m n := by
  rw [frameSum, BitVec.toNat_ofNat, sumBytes_eq, byteSum, show 2 + (n - 3) = n - 1 by omega]

/-- The sum is a function of bytes 2 .. n-2. -/
theorem byteSum_congr {m m' : Memory} {n : Nat} (h : ∀ a, 2 ≤ a → a < n - 1 → m.read a = m'.read a) :
    byteSum m n = byteSum m' n := by
  unfold byteSum
  congr 1
  refine Finset.sum_congr rfl fun i hi => ?_
  rw [Finset.mem_Ico] at hi
  rw [h i hi.1 hi.2]

theorem read_writeHeader (t : Memory) (len type : Byte) (a : Nat) :
    (writeHeader t len type).read a =
      if a = 3 then type else if a = 2 then len else if a = 1 ∨ a = 0 then 0x7E#8 else t.read a := by
  simp only [writeHeader, Memory.read_write]
  split_ifs <;> simp_all

theorem read_sealFrame (t : Memory) (n a : Nat) :
    (sealFrame t n).read a = if a = n - 1 then frameSum t n else t.read a := Memory.read_write _ _ _ _

/-- The last byte of a sealed frame is the sum of its own bytes. -/
theorem sealFrame_sum (t : Memory) {n : Nat} (h : 4 ≤ n) :
    ((sealFrame t n).read (n - 1)).toNat = byteSum (sealFrame t n) n := by
  rw [read_sealFrame, if_pos rfl, frameSum_toNat _ h]
  refine byteSum_congr fun a _ h2 => ?_
  rw [read_sealFrame, if_neg (by omega)]

/-- Being a frame is a matter of the first n bytes. -/
theorem WellFramed.congr {m m' : Memory} {n : Nat} (h : WellFramed m n) (hc : ∀ a, a < n → m'.read a = m.read a) :
    WellFramed m' n := by
  have h4 := h.enough
  refine ⟨by rw [hc _ (by omega)]; exact h.sync0, by rw [hc _ (by omega)]; exact h.sync1,
    by rw [hc _ (by omega)]; exact h.bound, by rw [hc _ (by omega)]; exact h.length, h4, ?_⟩
  rw [hc _ (by omega), h.sum]
  exact byteSum_congr fun a _ h2 => (hc _ (by omega)).symm

/-- The bytes VALIDATE passes are a frame. -/
theorem wellFramed_of_validateError {m : Memory} {n : Nat} (h : validateError m n = none) : WellFramed m n := by
  unfold validateError checksum at h
  split_ifs at h with k1 k2 k3 k4
  simp only [Bool.not_eq_true', Bool.not_eq_false] at k2
  rw [hdrOk_iff] at k2
  dsimp only at h
  split_ifs at h with k5
  refine ⟨k2.1, k2.2.1, k2.2.2, by simpa using k3, by omega, ?_⟩
  rw [← k5, frameSum_toNat _ (by omega)]

end Sys2Proof.Machine
end

