-- ==== Sys2Proof/Laws/State.lean ====
section
/-! SUPPORT. One lemma per field per named update of the state, each true by unfolding, so that no proof unfolds a record
update. -/

namespace Sys2Proof.Machine

/-! ### `State.withRx` -/

@[simp] theorem State.withRx_rx (s : State) (m : Memory) (len : Fin 65) :
    (s.withRx m len).rx = m := rfl
@[simp] theorem State.withRx_rxlen (s : State) (m : Memory) (len : Fin 65) :
    (s.withRx m len).rxlen = len := rfl
@[simp] theorem State.withRx_rxok (s : State) (m : Memory) (len : Fin 65) :
    (s.withRx m len).rxok = false := rfl
@[simp] theorem State.withRx_tx (s : State) (m : Memory) (len : Fin 65) :
    (s.withRx m len).tx = s.tx := rfl
@[simp] theorem State.withRx_txlen (s : State) (m : Memory) (len : Fin 65) :
    (s.withRx m len).txlen = s.txlen := rfl
@[simp] theorem State.withRx_ds (s : State) (m : Memory) (len : Fin 65) :
    (s.withRx m len).ds = s.ds := rfl
@[simp] theorem State.withRx_err (s : State) (m : Memory) (len : Fin 65) :
    (s.withRx m len).err = s.err := rfl
@[simp] theorem State.withRx_warnUnrec (s : State) (m : Memory) (len : Fin 65) :
    (s.withRx m len).warnUnrec = s.warnUnrec := rfl
@[simp] theorem State.withRx_warnQuiet3 (s : State) (m : Memory) (len : Fin 65) :
    (s.withRx m len).warnQuiet3 = s.warnQuiet3 := rfl
@[simp] theorem State.withRx_result (s : State) (m : Memory) (len : Fin 65) :
    (s.withRx m len).result = s.result := rfl
@[simp] theorem State.withRx_pending (s : State) (m : Memory) (len : Fin 65) :
    (s.withRx m len).pending = s.pending := rfl
@[simp] theorem State.withRx_index (s : State) (m : Memory) (len : Fin 65) :
    (s.withRx m len).index = s.index := rfl

/-! ### `State.withRxok` -/

@[simp] theorem State.withRxok_rx (s : State) (b : Bool) :
    (s.withRxok b).rx = s.rx := rfl
@[simp] theorem State.withRxok_rxlen (s : State) (b : Bool) :
    (s.withRxok b).rxlen = s.rxlen := rfl
@[simp] theorem State.withRxok_rxok (s : State) (b : Bool) :
    (s.withRxok b).rxok = b := rfl
@[simp] theorem State.withRxok_tx (s : State) (b : Bool) :
    (s.withRxok b).tx = s.tx := rfl
@[simp] theorem State.withRxok_txlen (s : State) (b : Bool) :
    (s.withRxok b).txlen = s.txlen := rfl
@[simp] theorem State.withRxok_ds (s : State) (b : Bool) :
    (s.withRxok b).ds = s.ds := rfl
@[simp] theorem State.withRxok_err (s : State) (b : Bool) :
    (s.withRxok b).err = s.err := rfl
@[simp] theorem State.withRxok_warnUnrec (s : State) (b : Bool) :
    (s.withRxok b).warnUnrec = s.warnUnrec := rfl
@[simp] theorem State.withRxok_warnQuiet3 (s : State) (b : Bool) :
    (s.withRxok b).warnQuiet3 = s.warnQuiet3 := rfl
@[simp] theorem State.withRxok_result (s : State) (b : Bool) :
    (s.withRxok b).result = s.result := rfl
@[simp] theorem State.withRxok_pending (s : State) (b : Bool) :
    (s.withRxok b).pending = s.pending := rfl
@[simp] theorem State.withRxok_index (s : State) (b : Bool) :
    (s.withRxok b).index = s.index := rfl

/-! ### `State.withTx` -/

@[simp] theorem State.withTx_rx (s : State) (m : Memory) (len : Fin 65) :
    (s.withTx m len).rx = s.rx := rfl
@[simp] theorem State.withTx_rxlen (s : State) (m : Memory) (len : Fin 65) :
    (s.withTx m len).rxlen = s.rxlen := rfl
@[simp] theorem State.withTx_rxok (s : State) (m : Memory) (len : Fin 65) :
    (s.withTx m len).rxok = s.rxok := rfl
@[simp] theorem State.withTx_tx (s : State) (m : Memory) (len : Fin 65) :
    (s.withTx m len).tx = m := rfl
@[simp] theorem State.withTx_txlen (s : State) (m : Memory) (len : Fin 65) :
    (s.withTx m len).txlen = len := rfl
@[simp] theorem State.withTx_ds (s : State) (m : Memory) (len : Fin 65) :
    (s.withTx m len).ds = s.ds := rfl
@[simp] theorem State.withTx_err (s : State) (m : Memory) (len : Fin 65) :
    (s.withTx m len).err = s.err := rfl
@[simp] theorem State.withTx_warnUnrec (s : State) (m : Memory) (len : Fin 65) :
    (s.withTx m len).warnUnrec = s.warnUnrec := rfl
@[simp] theorem State.withTx_warnQuiet3 (s : State) (m : Memory) (len : Fin 65) :
    (s.withTx m len).warnQuiet3 = s.warnQuiet3 := rfl
@[simp] theorem State.withTx_result (s : State) (m : Memory) (len : Fin 65) :
    (s.withTx m len).result = s.result := rfl
@[simp] theorem State.withTx_pending (s : State) (m : Memory) (len : Fin 65) :
    (s.withTx m len).pending = s.pending := rfl
@[simp] theorem State.withTx_index (s : State) (m : Memory) (len : Fin 65) :
    (s.withTx m len).index = s.index := rfl

/-! ### `State.withTxlen` -/

@[simp] theorem State.withTxlen_rx (s : State) (len : Fin 65) :
    (s.withTxlen len).rx = s.rx := rfl
@[simp] theorem State.withTxlen_rxlen (s : State) (len : Fin 65) :
    (s.withTxlen len).rxlen = s.rxlen := rfl
@[simp] theorem State.withTxlen_rxok (s : State) (len : Fin 65) :
    (s.withTxlen len).rxok = s.rxok := rfl
@[simp] theorem State.withTxlen_tx (s : State) (len : Fin 65) :
    (s.withTxlen len).tx = s.tx := rfl
@[simp] theorem State.withTxlen_txlen (s : State) (len : Fin 65) :
    (s.withTxlen len).txlen = len := rfl
@[simp] theorem State.withTxlen_ds (s : State) (len : Fin 65) :
    (s.withTxlen len).ds = s.ds := rfl
@[simp] theorem State.withTxlen_err (s : State) (len : Fin 65) :
    (s.withTxlen len).err = s.err := rfl
@[simp] theorem State.withTxlen_warnUnrec (s : State) (len : Fin 65) :
    (s.withTxlen len).warnUnrec = s.warnUnrec := rfl
@[simp] theorem State.withTxlen_warnQuiet3 (s : State) (len : Fin 65) :
    (s.withTxlen len).warnQuiet3 = s.warnQuiet3 := rfl
@[simp] theorem State.withTxlen_result (s : State) (len : Fin 65) :
    (s.withTxlen len).result = s.result := rfl
@[simp] theorem State.withTxlen_pending (s : State) (len : Fin 65) :
    (s.withTxlen len).pending = s.pending := rfl
@[simp] theorem State.withTxlen_index (s : State) (len : Fin 65) :
    (s.withTxlen len).index = s.index := rfl

/-! ### `State.withDs` -/

@[simp] theorem State.withDs_rx (s : State) (d : DeviceState) :
    (s.withDs d).rx = s.rx := rfl
@[simp] theorem State.withDs_rxlen (s : State) (d : DeviceState) :
    (s.withDs d).rxlen = s.rxlen := rfl
@[simp] theorem State.withDs_rxok (s : State) (d : DeviceState) :
    (s.withDs d).rxok = s.rxok := rfl
@[simp] theorem State.withDs_tx (s : State) (d : DeviceState) :
    (s.withDs d).tx = s.tx := rfl
@[simp] theorem State.withDs_txlen (s : State) (d : DeviceState) :
    (s.withDs d).txlen = s.txlen := rfl
@[simp] theorem State.withDs_ds (s : State) (d : DeviceState) :
    (s.withDs d).ds = d := rfl
@[simp] theorem State.withDs_err (s : State) (d : DeviceState) :
    (s.withDs d).err = s.err := rfl
@[simp] theorem State.withDs_warnUnrec (s : State) (d : DeviceState) :
    (s.withDs d).warnUnrec = s.warnUnrec := rfl
@[simp] theorem State.withDs_warnQuiet3 (s : State) (d : DeviceState) :
    (s.withDs d).warnQuiet3 = s.warnQuiet3 := rfl
@[simp] theorem State.withDs_result (s : State) (d : DeviceState) :
    (s.withDs d).result = s.result := rfl
@[simp] theorem State.withDs_pending (s : State) (d : DeviceState) :
    (s.withDs d).pending = s.pending := rfl
@[simp] theorem State.withDs_index (s : State) (d : DeviceState) :
    (s.withDs d).index = s.index := rfl

/-! ### `State.withWarnings` -/

@[simp] theorem State.withWarnings_rx (s : State) (u q : Bool) :
    (s.withWarnings u q).rx = s.rx := rfl
@[simp] theorem State.withWarnings_rxlen (s : State) (u q : Bool) :
    (s.withWarnings u q).rxlen = s.rxlen := rfl
@[simp] theorem State.withWarnings_rxok (s : State) (u q : Bool) :
    (s.withWarnings u q).rxok = s.rxok := rfl
@[simp] theorem State.withWarnings_tx (s : State) (u q : Bool) :
    (s.withWarnings u q).tx = s.tx := rfl
@[simp] theorem State.withWarnings_txlen (s : State) (u q : Bool) :
    (s.withWarnings u q).txlen = s.txlen := rfl
@[simp] theorem State.withWarnings_ds (s : State) (u q : Bool) :
    (s.withWarnings u q).ds = s.ds := rfl
@[simp] theorem State.withWarnings_err (s : State) (u q : Bool) :
    (s.withWarnings u q).err = s.err := rfl
@[simp] theorem State.withWarnings_warnUnrec (s : State) (u q : Bool) :
    (s.withWarnings u q).warnUnrec = u := rfl
@[simp] theorem State.withWarnings_warnQuiet3 (s : State) (u q : Bool) :
    (s.withWarnings u q).warnQuiet3 = q := rfl
@[simp] theorem State.withWarnings_result (s : State) (u q : Bool) :
    (s.withWarnings u q).result = s.result := rfl
@[simp] theorem State.withWarnings_pending (s : State) (u q : Bool) :
    (s.withWarnings u q).pending = s.pending := rfl
@[simp] theorem State.withWarnings_index (s : State) (u q : Bool) :
    (s.withWarnings u q).index = s.index := rfl

/-! ### `State.finish` -/

@[simp] theorem State.finish_rx (s : State) (e : ErrCode) (r : Half) :
    (s.finish e r).rx = s.rx := rfl
@[simp] theorem State.finish_rxlen (s : State) (e : ErrCode) (r : Half) :
    (s.finish e r).rxlen = s.rxlen := rfl
@[simp] theorem State.finish_rxok (s : State) (e : ErrCode) (r : Half) :
    (s.finish e r).rxok = s.rxok := rfl
@[simp] theorem State.finish_tx (s : State) (e : ErrCode) (r : Half) :
    (s.finish e r).tx = s.tx := rfl
@[simp] theorem State.finish_txlen (s : State) (e : ErrCode) (r : Half) :
    (s.finish e r).txlen = s.txlen := rfl
@[simp] theorem State.finish_ds (s : State) (e : ErrCode) (r : Half) :
    (s.finish e r).ds = s.ds := rfl
@[simp] theorem State.finish_err (s : State) (e : ErrCode) (r : Half) :
    (s.finish e r).err = e := rfl
@[simp] theorem State.finish_warnUnrec (s : State) (e : ErrCode) (r : Half) :
    (s.finish e r).warnUnrec = s.warnUnrec := rfl
@[simp] theorem State.finish_warnQuiet3 (s : State) (e : ErrCode) (r : Half) :
    (s.finish e r).warnQuiet3 = s.warnQuiet3 := rfl
@[simp] theorem State.finish_result (s : State) (e : ErrCode) (r : Half) :
    (s.finish e r).result = r := rfl
@[simp] theorem State.finish_pending (s : State) (e : ErrCode) (r : Half) :
    (s.finish e r).pending = s.pending := rfl
@[simp] theorem State.finish_index (s : State) (e : ErrCode) (r : Half) :
    (s.finish e r).index = s.index := rfl

/-! ### `State.softReset` -/

@[simp] theorem State.softReset_rx (s : State) :
    (s.softReset).rx = Memory.zero := rfl
@[simp] theorem State.softReset_rxlen (s : State) :
    (s.softReset).rxlen = 0 := rfl
@[simp] theorem State.softReset_rxok (s : State) :
    (s.softReset).rxok = false := rfl
@[simp] theorem State.softReset_tx (s : State) :
    (s.softReset).tx = Memory.zero := rfl
@[simp] theorem State.softReset_txlen (s : State) :
    (s.softReset).txlen = 0 := rfl
@[simp] theorem State.softReset_ds (s : State) :
    (s.softReset).ds = DeviceState.reset := rfl
@[simp] theorem State.softReset_err (s : State) :
    (s.softReset).err = .ok := rfl
@[simp] theorem State.softReset_warnUnrec (s : State) :
    (s.softReset).warnUnrec = false := rfl
@[simp] theorem State.softReset_warnQuiet3 (s : State) :
    (s.softReset).warnQuiet3 = false := rfl
@[simp] theorem State.softReset_result (s : State) :
    (s.softReset).result = 0 := rfl
@[simp] theorem State.softReset_pending (s : State) :
    (s.softReset).pending = s.pending := rfl
@[simp] theorem State.softReset_index (s : State) :
    (s.softReset).index = s.index := rfl

end Sys2Proof.Machine
end

