-- ==== Sys2Proof/Laws/Ops.lean ====
section
/-! SUPPORT. What each shared operation can do, said once: `succeed`, `raise`, `fetch`, `writeField`, `decodeFrame` and
`emitFrame`. -/

namespace Sys2Proof.Machine

theorem succeed_next {s t : State} {r : Half} : succeed s r = .next t ↔ t = s.finish .ok r := by
  simp [succeed, eq_comm]

theorem raise_next {s t : State} {e : ErrCode} : raise s e = .next t ↔ t = s.finish e 0 := by
  simp [raise, eq_comm]

/-- `fetch` takes the next word and advances the index; it changes no register of the block. -/
theorem fetch_cases {s t : State} {w : Word} (h : fetch s = some (w, t)) :
    s.pending = w :: t.pending ∧ t = { s with pending := t.pending, index := s.index + 1 } := by
  unfold fetch at h
  split at h
  · cases h
  · rename_i v rest hp
    cases h
    exact ⟨hp, rfl⟩

/-- WRF writes one register or raises BadOperand. -/
theorem writeField_cases (c : Config) (field : Byte) (value : Half) (s : State) :
    writeField c field value s = raise s .badOperand ∨
      ∃ f, fieldOfId? field = some f ∧ inDomain c f value = true ∧
        writeField c field value s = succeed (s.withDs (s.ds.set f value)) 0 := by
  unfold writeField
  cases hf : fieldOfId? field with
  | none => exact .inl rfl
  | some f =>
    cases hd : inDomain c f value with
    | false => exact .inl (by simp [hd])
    | true => exact .inr ⟨f, rfl, hd, by simp [hd]⟩

/-- DECODE raises the first precondition that fails, or commits the whole snapshot. -/
theorem decodeFrame_cases (c : Config) (s : State) :
    (∃ e, decodeError s = some e ∧ decodeFrame c s = raise s e) ∨
      (decodeError s = none ∧
        decodeFrame c s = succeed
          ((s.withDs (decodeSnapshot c s.rx s.ds)).withWarnings (warnsUnrec (decodeSnapshot c s.rx s.ds))
            (warnsQuiet3 (decodeSnapshot c s.rx s.ds))) 0) := by
  unfold decodeFrame
  cases h : decodeError s with
  | none => exact .inr ⟨rfl, rfl⟩
  | some e => exact .inl ⟨e, rfl, rfl⟩

/-- ENCODE and ENCRT refuse an invalid snapshot and withdraw the frame, or replace TX whole. -/
theorem emitFrame_cases (s : State) (frame : Memory) :
    (s.ds.valid = 0 ∧ emitFrame s frame = raise (s.withTxlen 0) .invalidStateForEncode) ∨
      (s.ds.valid ≠ 0 ∧ emitFrame s frame = succeed (s.withTx frame 40) 40) := by
  unfold emitFrame
  by_cases h : s.ds.valid = 0
  · exact .inl ⟨h, if_pos h⟩
  · exact .inr ⟨h, if_neg h⟩

end Sys2Proof.Machine
end

