-- ==== Sys2Proof/Laws/PerInstr.lean ====
section
/-! SUPPORT. Per-instruction families: one lemma per constructor of `Instr`. -/

namespace Sys2Proof.Laws

/-- The OP value of spec/30_encoding.md R102 for each command. -/
def OpField.opcode : Instr → Byte
  | .nop => 0x00
  | .rxclr => 0x01
  | .rxpush _ => 0x02
  | .rxrd _ => 0x03
  | .txclr => 0x04
  | .txput _ _ => 0x05
  | .txrd _ => 0x06
  | .cksum => 0x10
  | .hdrchk => 0x11
  | .validate => 0x12
  | .wrap _ _ => 0x13
  | .query => 0x14
  | .decode => 0x20
  | .encode _ => 0x21
  | .encrt => 0x22
  | .rdf _ => 0x30
  | .wrf _ _ => 0x31
  | .tdec _ _ _ _ => 0x40
  | .tenc _ _ => 0x41
  | .srst => 0xF0

/-- The family: the word of a command carries the command's OP value in bits 31:24. -/
def OpField.Statement (i : Instr) : Prop := opOf (encode i) = OpField.opcode i

theorem OpField.nop : OpField.Statement .nop := opOf_cmdWord _ _ _
theorem OpField.rxclr : OpField.Statement .rxclr := opOf_cmdWord _ _ _
theorem OpField.rxpush (byte : Byte) : OpField.Statement (.rxpush byte) := opOf_cmdWord _ _ _
theorem OpField.rxrd (index : Byte) : OpField.Statement (.rxrd index) := opOf_cmdWord _ _ _
theorem OpField.txclr : OpField.Statement .txclr := opOf_cmdWord _ _ _
theorem OpField.txput (index byte : Byte) : OpField.Statement (.txput index byte) := opOf_cmdWord _ _ _
theorem OpField.txrd (index : Byte) : OpField.Statement (.txrd index) := opOf_cmdWord _ _ _
theorem OpField.cksum : OpField.Statement .cksum := opOf_cmdWord _ _ _
theorem OpField.hdrchk : OpField.Statement .hdrchk := opOf_cmdWord _ _ _
theorem OpField.validate : OpField.Statement .validate := opOf_cmdWord _ _ _
theorem OpField.wrap (type len : Byte) : OpField.Statement (.wrap type len) := opOf_cmdWord _ _ _
theorem OpField.query : OpField.Statement .query := opOf_cmdWord _ _ _
theorem OpField.decode : OpField.Statement .decode := opOf_cmdWord _ _ _
theorem OpField.encode (latch : BitVec 1) : OpField.Statement (.encode latch) := opOf_cmdWord _ _ _
theorem OpField.encrt : OpField.Statement .encrt := opOf_cmdWord _ _ _
theorem OpField.rdf (field : Byte) : OpField.Statement (.rdf field) := opOf_cmdWord _ _ _
theorem OpField.wrf (field : Byte) (value : Half) : OpField.Statement (.wrf field value) := opOf_cmdWord _ _ _
theorem OpField.tdec (units : BitVec 1) (upper : BitVec 4) (lo h : BitVec 1) :
    OpField.Statement (.tdec units upper lo h) := opOf_cmdWord _ _ _
theorem OpField.tenc (units : BitVec 1) (t2 : Byte) : OpField.Statement (.tenc units t2) := opOf_cmdWord _ _ _
theorem OpField.srst : OpField.Statement .srst := opOf_cmdWord _ _ _

end Sys2Proof.Laws
end

