-- ==== Sys2Proof/Laws/SnapshotDecode.lean ====
section
/-! SUPPORT. What DECODE's snapshot holds, register by register (`decodeSnapshot_registers`, `decodeSnapshot_mapped`), so
that no proof unfolds the chain of its parts; and that a snapshot is the values of its registers. -/

namespace Sys2Proof.Machine

/-- Zero-extension loses nothing. -/
theorem toNat_setWidth_of_le {n k : Nat} (h : n ≤ k) (x : BitVec n) : (x.setWidth k).toNat = x.toNat := by
  rw [BitVec.toNat_setWidth]
  exact Nat.mod_eq_of_lt (lt_of_lt_of_le x.isLt (Nat.pow_le_pow_right (by decide) h))

theorem eq_of_setWidth_eq {n k : Nat} {a b : BitVec n} (h : n ≤ k) (e : a.setWidth k = b.setWidth k) : a = b := by
  apply BitVec.eq_of_toNat_eq
  rw [← toNat_setWidth_of_le h a, ← toNat_setWidth_of_le h b, e]

/-- A snapshot is the values of its registers. -/
theorem DeviceState.ext_get {d e : DeviceState} (h : ∀ f, d.get f = e.get f) : d = e := by
  have hc : d.customSleepCurve = e.customSleepCurve := by
    apply Vector.ext
    intro i hi
    exact eq_of_setWidth_eq (by decide) (h (.customSleepCurve ⟨i, hi⟩))
  have k1 := eq_of_setWidth_eq (by decide) (h .valid)
  have k2 := eq_of_setWidth_eq (by decide) (h .temp)
  have k3 := eq_of_setWidth_eq (by decide) (h .tempUnits)
  have k4 := eq_of_setWidth_eq (by decide) (h .isOn)
  have k5 := eq_of_setWidth_eq (by decide) (h .mode)
  have k6 := eq_of_setWidth_eq (by decide) (h .fanState)
  have k7 := eq_of_setWidth_eq (by decide) (h .fanSpeed)
  have k8 := eq_of_setWidth_eq (by decide) (h .turbo)
  have k9 := eq_of_setWidth_eq (by decide) (h .quietType)
  have k10 := eq_of_setWidth_eq (by decide) (h .tempDisplay)
  have k11 := eq_of_setWidth_eq (by decide) (h .light)
  have k12 := eq_of_setWidth_eq (by decide) (h .purify)
  have k13 := eq_of_setWidth_eq (by decide) (h .ecoMode)
  have k14 := eq_of_setWidth_eq (by decide) (h .heatAssist)
  have k15 := eq_of_setWidth_eq (by decide) (h .humidifyType)
  have k16 := eq_of_setWidth_eq (by decide) (h .xFan)
  have k17 := eq_of_setWidth_eq (by decide) (h .xFanForHeat)
  have k18 := eq_of_setWidth_eq (by decide) (h .intakeExhaust)
  have k19 := eq_of_setWidth_eq (by decide) (h .horizontalAirDirection)
  have k20 := eq_of_setWidth_eq (by decide) (h .verticalAirDirection)
  have k21 := eq_of_setWidth_eq (by decide) (h .sleepCurveType)
  have k22 := eq_of_setWidth_eq (by decide) (h .timerOnOffEnable)
  have k23 := eq_of_setWidth_eq (by decide) (h .timerOnEnable)
  have k24 := eq_of_setWidth_eq (by decide) (h .timerOffEnable)
  have k25 := eq_of_setWidth_eq (by decide) (h .minutesUntilOn)
  have k26 := eq_of_setWidth_eq (by decide) (h .minutesUntilOff)
  have k27 := eq_of_setWidth_eq (by decide) (h .timerRemoteFlag)
  have k28 := eq_of_setWidth_eq (by decide) (h .clock)
  have k29 := eq_of_setWidth_eq (by decide) (h .dayOfWeek)
  have k30 := eq_of_setWidth_eq (by decide) (h .onTime)
  have k31 := eq_of_setWidth_eq (by decide) (h .offTime)
  have k32 := eq_of_setWidth_eq (by decide) (h .dayOfWeekOnMask)
  have k33 := eq_of_setWidth_eq (by decide) (h .dayOfWeekOffMask)
  have k34 := eq_of_setWidth_eq (by decide) (h .timerOnUseClock)
  have k35 := eq_of_setWidth_eq (by decide) (h .timerOffUseClock)
  have k36 : d.sleepCurveClock = e.sleepCurveClock := h .sleepCurveClock
  have k37 := eq_of_setWidth_eq (by decide) (h .sleepCurveClockInvalid)
  have k38 := eq_of_setWidth_eq (by decide) (h .useRemoteTempSensor)
  have k39 := eq_of_setWidth_eq (by decide) (h .remoteTempVal)
  have k40 := eq_of_setWidth_eq (by decide) (h .noiseControlEnable)
  have k41 := eq_of_setWidth_eq (by decide) (h .noiseControlHeating)
  have k42 := eq_of_setWidth_eq (by decide) (h .noiseControlCooling)
  have k43 := eq_of_setWidth_eq (by decide) (h .regionalSwingPosition)
  have k44 := eq_of_setWidth_eq (by decide) (h .regionalSwingAvoidPeople)
  have k45 := eq_of_setWidth_eq (by decide) (h .modeMysteryBit2)
  have k46 := eq_of_setWidth_eq (by decide) (h .modeMysteryBit3)
  have k47 := eq_of_setWidth_eq (by decide) (h .pass27)
  have k48 := eq_of_setWidth_eq (by decide) (h .pass41)
  cases d
  cases e
  simp only at *
  subst_vars
  rfl

/-- The value of a segment list of one segment. -/
theorem extract_single (f : Memory) (byte hi lo : Nat) : extract f [⟨byte, hi, lo⟩] = slice (f.read byte) hi lo := by
  simp [extract, segsWidth]

/-! ### The chain of DECODE's parts -/

/-- The snapshot after R202 to R209, the parts before the FIELD_MAP fields. -/
def decodeCodecFields (c : Config) (f : Memory) (d : DeviceState) : DeviceState :=
  decodeSwing c f (decodeMinutesUntilOn f (decodeSleep c f (decodeFan f
    (decodeXFan f (decodeTemperature f (decodeMode f d))))))

theorem decodeSnapshot_eq (c : Config) (f : Memory) (d : DeviceState) :
    decodeSnapshot c f d =
      { decodePassthrough c f (decodeMappedFields c f (decodeCodecFields c f d)) with valid := 1 } := by
  simp only [decodeSnapshot, decodeCodecFields]

theorem decodePassthrough_get (c : Config) (f : Memory) (n : DeviceState) {g : Field}
    (h : g ∉ [Field.valid, .pass27, .pass41]) :
    DeviceState.get { decodePassthrough c f n with valid := 1 } g = n.get g := by
  cases g <;> first | rfl | (exfalso; revert h; decide)

/-- A register that is no FIELD_MAP field keeps what R202 to R209 gave it. -/
theorem decodeSnapshot_codec (c : Config) (f : Memory) (d : DeviceState) {g : Field} (h : g ∉ Field.mapped)
    (h' : g ∉ [Field.valid, .pass27, .pass41]) :
    (decodeSnapshot c f d).get g = (decodeCodecFields c f d).get g := by
  rw [decodeSnapshot_eq, decodePassthrough_get _ _ _ h', decodeMappedFields, decodeFields_get_not_mem _ _ _ _ h]

/-- R210: a FIELD_MAP field is its extraction, none of whose bits is lost in the register. -/
theorem decodeSnapshot_mapped (c : Config) (f : Memory) (d : DeviceState) {g : Field} (h : g ∈ Field.mapped) :
    ((decodeSnapshot c f d).get g).toNat = extract f (c.fieldMap g) := by
  have h' : g ∉ [Field.valid, .pass27, .pass41] := by
    intro hg
    revert h
    simp only [List.mem_cons, List.not_mem_nil, or_false] at hg
    rcases hg with rfl | rfl | rfl <;> decide
  rw [decodeSnapshot_eq, decodePassthrough_get _ _ _ h', decodeMappedFields,
    decodeFields_get_mem _ _ _ _ Field.mapped_nodup h]
  have hx := extract_lt f (c.fieldMap g)
  rw [c.mapped_width h] at hx
  have h1 := Nat.pow_le_pow_right (n := 2) (by decide) (c.wireWidth_le g)
  have h2 := Nat.pow_le_pow_right (n := 2) (by decide) g.width_le
  rw [Nat.mod_eq_of_lt (a := extract _ _) (by omega), Nat.mod_eq_of_lt (by omega)]

/-- The parts after R204 leave the registers of R202 to R204. -/
theorem decodeSwing_head (c : Config) (f : Memory) (x : DeviceState) :
    let n := decodeSwing c f (decodeMinutesUntilOn f (decodeSleep c f (decodeFan f x)))
    n.isOn = x.isOn ∧ n.mode = x.mode ∧ n.temp = x.temp ∧ n.tempUnits = x.tempUnits ∧ n.xFan = x.xFan
      ∧ n.xFanForHeat = x.xFanForHeat := ⟨rfl, rfl, rfl, rfl, rfl, rfl⟩

/-- The registers of R205 to R209. -/
theorem decodeSwing_tail (c : Config) (f : Memory) (x : DeviceState) :
    let n := decodeSwing c f (decodeMinutesUntilOn f (decodeSleep c f (decodeFan f x)))
    n.turbo = BitVec.ofNat 1 (extract f Wire.turbo) ∧ n.quietType = BitVec.ofNat 2 (extract f Wire.quietType)
      ∧ n.fanSpeed = BitVec.ofNat 3 (extract f Wire.fanSpeed)
      ∧ n.fanState = fanStateOf (BitVec.ofNat 1 (extract f Wire.turbo)) (BitVec.ofNat 2 (extract f Wire.quietType))
          (BitVec.ofNat 3 (extract f Wire.fanSpeed))
      ∧ n.sleepCurveType = (if extract f Wire.siesta = 1 then sleepSiesta
          else BitVec.ofNat 8 (extract f c.params.sleepIndex))
      ∧ n.minutesUntilOn = BitVec.ofNat 11 (extract f Wire.minutesUntilOn)
      ∧ n.regionalSwingPosition = (if extract f c.params.swingSpill = 1 then swingOverflow
          else BitVec.ofNat 9 (extract f c.params.swingPosition)) := ⟨rfl, rfl, rfl, rfl, rfl, rfl, rfl⟩

theorem decodeTemperature_registers (f : Memory) (d : DeviceState) :
    let n := decodeTemperature f (decodeMode f d)
    n.isOn = BitVec.ofNat 1 (extract f Wire.isOn) ∧ n.mode = BitVec.ofNat 4 (extract f Wire.mode)
      ∧ n.temp = BitVec.ofNat 8 (decodeTemp (extract f Wire.tempUnits) (extract f Wire.tempUpper)
          (extract f Wire.tempLower) (extract f Wire.tempHalf))
      ∧ n.tempUnits = BitVec.ofNat 2 (extract f Wire.tempUnits) ∧ n.xFan = d.xFan
      ∧ n.xFanForHeat = d.xFanForHeat := ⟨rfl, rfl, rfl, rfl, rfl, rfl⟩

theorem decodeXFan_rest (f : Memory) (n : DeviceState) :
    (decodeXFan f n).isOn = n.isOn ∧ (decodeXFan f n).mode = n.mode ∧ (decodeXFan f n).temp = n.temp
      ∧ (decodeXFan f n).tempUnits = n.tempUnits := by
  unfold decodeXFan
  dsimp only
  split_ifs <;> exact ⟨rfl, rfl, rfl, rfl⟩

/-- R204, register by register. -/
theorem decodeXFan_registers (f : Memory) (n : DeviceState) :
    ((decodeXFan f n).xFan = if n.mode = modeCool ∨ n.mode = modeDry then BitVec.ofNat 1 (extract f Wire.xFan)
        else if n.mode = modeHeat then 0 else n.xFan)
      ∧ ((decodeXFan f n).xFanForHeat = if n.mode = modeCool ∨ n.mode = modeDry then 0
        else if n.mode = modeHeat then BitVec.ofNat 1 (extract f Wire.xFan) else n.xFanForHeat) := by
  unfold decodeXFan
  dsimp only
  split_ifs <;> exact ⟨rfl, rfl⟩

/-- Every register of a decoded snapshot that is no FIELD_MAP field (R202 to R209, R211, R212). -/
structure DecodedRegisters (c : Config) (f : Memory) (d n : DeviceState) : Prop where
  valid : n.valid = 1
  isOn : n.isOn = BitVec.ofNat 1 (extract f Wire.isOn)
  mode : n.mode = BitVec.ofNat 4 (extract f Wire.mode)
  temp : n.temp = BitVec.ofNat 8 (decodeTemp (extract f Wire.tempUnits) (extract f Wire.tempUpper)
    (extract f Wire.tempLower) (extract f Wire.tempHalf))
  tempUnits : n.tempUnits = BitVec.ofNat 2 (extract f Wire.tempUnits)
  xFan : n.xFan = if n.mode = modeCool ∨ n.mode = modeDry then BitVec.ofNat 1 (extract f Wire.xFan)
    else if n.mode = modeHeat then 0 else d.xFan
  xFanForHeat : n.xFanForHeat = if n.mode = modeCool ∨ n.mode = modeDry then 0
    else if n.mode = modeHeat then BitVec.ofNat 1 (extract f Wire.xFan) else d.xFanForHeat
  turbo : n.turbo = BitVec.ofNat 1 (extract f Wire.turbo)
  quietType : n.quietType = BitVec.ofNat 2 (extract f Wire.quietType)
  fanSpeed : n.fanSpeed = BitVec.ofNat 3 (extract f Wire.fanSpeed)
  fanState : n.fanState = fanStateOf n.turbo n.quietType n.fanSpeed
  sleepCurveType : n.sleepCurveType = if extract f Wire.siesta = 1 then sleepSiesta
    else BitVec.ofNat 8 (extract f c.params.sleepIndex)
  minutesUntilOn : n.minutesUntilOn = BitVec.ofNat 11 (extract f Wire.minutesUntilOn)
  regionalSwingPosition : n.regionalSwingPosition = if extract f c.params.swingSpill = 1 then swingOverflow
    else BitVec.ofNat 9 (extract f c.params.swingPosition)
  pass27 : n.pass27 = f.read 27 &&& c.params.pass27Mask
  pass41 : n.pass41 = f.read 41

theorem decodeSnapshot_registers (c : Config) (f : Memory) (d : DeviceState) :
    DecodedRegisters c f d (decodeSnapshot c f d) := by
  have keep : ∀ {g : Field}, g ∉ Field.mapped → g ∉ [Field.valid, .pass27, .pass41] →
      (decodeSnapshot c f d).get g = (decodeCodecFields c f d).get g := decodeSnapshot_codec c f d
  obtain ⟨z1, z2, z3, z4, z5, z6⟩ := decodeSwing_head c f (decodeXFan f (decodeTemperature f (decodeMode f d)))
  obtain ⟨t1, t2, t3, t4, t5, t6, t7⟩ := decodeSwing_tail c f (decodeXFan f (decodeTemperature f (decodeMode f d)))
  obtain ⟨x1, x2, x3, x4⟩ := decodeXFan_rest f (decodeTemperature f (decodeMode f d))
  obtain ⟨y1, y2⟩ := decodeXFan_registers f (decodeTemperature f (decodeMode f d))
  obtain ⟨w1, w2, w3, w4, w5, w6⟩ := decodeTemperature_registers f d
  have hm : (decodeSnapshot c f d).mode = BitVec.ofNat 4 (extract f Wire.mode) :=
    (eq_of_setWidth_eq (by decide) (keep (g := .mode) (by decide) (by decide))).trans (z2.trans (x2.trans w2))
  have q7 := (eq_of_setWidth_eq (by decide) (keep (g := .turbo) (by decide) (by decide))).trans t1
  have q8 := (eq_of_setWidth_eq (by decide) (keep (g := .quietType) (by decide) (by decide))).trans t2
  have q9 := (eq_of_setWidth_eq (by decide) (keep (g := .fanSpeed) (by decide) (by decide))).trans t3
  have q10 := (eq_of_setWidth_eq (by decide) (keep (g := .fanState) (by decide) (by decide))).trans t4
  constructor
  · rw [decodeSnapshot_eq]
  · exact (eq_of_setWidth_eq (by decide) (keep (g := .isOn) (by decide) (by decide))).trans (z1.trans (x1.trans w1))
  · exact hm
  · exact (eq_of_setWidth_eq (by decide) (keep (g := .temp) (by decide) (by decide))).trans (z3.trans (x3.trans w3))
  · exact (eq_of_setWidth_eq (by decide) (keep (g := .tempUnits) (by decide) (by decide))).trans
      (z4.trans (x4.trans w4))
  · rw [hm, ← w2, ← w5]
    exact (eq_of_setWidth_eq (by decide) (keep (g := .xFan) (by decide) (by decide))).trans (z5.trans y1)
  · rw [hm, ← w2, ← w6]
    exact (eq_of_setWidth_eq (by decide) (keep (g := .xFanForHeat) (by decide) (by decide))).trans (z6.trans y2)
  · exact q7
  · exact q8
  · exact q9
  · rw [q7, q8, q9]
    exact q10
  · exact (eq_of_setWidth_eq (by decide) (keep (g := .sleepCurveType) (by decide) (by decide))).trans t5
  · exact (eq_of_setWidth_eq (by decide) (keep (g := .minutesUntilOn) (by decide) (by decide))).trans t6
  · exact (eq_of_setWidth_eq (by decide) (keep (g := .regionalSwingPosition) (by decide) (by decide))).trans t7
  · rw [decodeSnapshot_eq]
    rfl
  · rw [decodeSnapshot_eq]
    rfl

end Sys2Proof.Machine
end

