-- ==== Sys2Proof/Laws/SnapshotEncode.lean ====
section
/-! SUPPORT. What normalisation keeps, and what a command frame holds: its fields as ONE list of parts on pairwise different
bits (`packParts`), each extracted as it was packed (`extract_commandFrame`), every other bit as the empty frame has it
(`frameBit_pack_outside`). -/

namespace Sys2Proof.Machine

/-! ### Normalisation -/

theorem normaliseOff_get (d : DeviceState) {g : Field}
    (h : g ∉ [Field.intakeExhaust, .quietType, .sleepCurveType, .humidifyType, .purify]) :
    (normaliseOff d).get g = d.get g := by
  unfold normaliseOff
  split_ifs
  · cases g <;> first | rfl | (exfalso; revert h; decide)
  · rfl

theorem applyFanState_get (d : DeviceState) {g : Field} (h : g ∉ [Field.turbo, .quietType, .fanSpeed]) :
    (applyFanState d).get g = d.get g := by
  unfold applyFanState
  split_ifs <;> cases g <;> first | rfl | (exfalso; revert h; decide)

theorem applyNoiseControl_get (d : DeviceState) {g : Field} (h : g ∉ [Field.turbo, .fanSpeed]) :
    (applyNoiseControl d).get g = d.get g := by
  unfold applyNoiseControl
  split_ifs <;> cases g <;> first | rfl | (exfalso; revert h; decide)

/-- Normalisation changes at most the fan components and the five fields of step 1. -/
theorem normalise_get (d : DeviceState) {g : Field}
    (h : g ∉ [Field.intakeExhaust, .quietType, .sleepCurveType, .humidifyType, .purify, .turbo, .fanSpeed]) :
    (normalise d).get g = d.get g := by
  simp only [List.mem_cons, List.not_mem_nil, or_false, not_or] at h
  rw [normalise, applyNoiseControl_get _ (by simp; tauto), applyFanState_get _ (by simp; tauto),
    normaliseOff_get _ (by simp; tauto)]

/-! ### Lists of parts -/

/-- Insert every part of a list, in order. -/
def insertAll (t : Memory) : List (List Seg × Nat) → Memory
  | [] => t
  | p :: rest => insertAll (insertBits t p.1 p.2) rest

theorem insertAll_append (t : Memory) (l l' : List (List Seg × Nat)) :
    insertAll t (l ++ l') = insertAll (insertAll t l) l' := by
  induction l generalizing t with
  | nil => rfl
  | cons p rest ih => exact ih _

theorem frameBit_insertAll_outside (l : List (List Seg × Nat)) (hl : ∀ p ∈ l, ∀ s ∈ p.1, s.hi ≤ 7) (t : Memory)
    (cell : Nat) (h : ∀ p ∈ l, cell ∉ segsCells p.1) : frameBit (insertAll t l) cell = frameBit t cell := by
  induction l generalizing t with
  | nil => rfl
  | cons p rest ih =>
    rw [insertAll, ih (fun q hq => hl q (by simp [hq])) _ fun q hq => h q (by simp [hq]),
      frameBit_insertBits_outside _ _ (hl p (by simp)) _ _ (h p (by simp))]

theorem extract_insertAll (l : List (List Seg × Nat)) (hl : ∀ p ∈ l, ∀ s ∈ p.1, s.hi ≤ 7)
    (hn : (l.flatMap fun p => segsCells p.1).Nodup) (t : Memory) {p : List Seg × Nat} (hp : p ∈ l) :
    extract (insertAll t l) p.1 = p.2 % 2 ^ segsWidth p.1 := by
  induction l generalizing t with
  | nil => simp at hp
  | cons q rest ih =>
    have hr : ∀ p ∈ rest, ∀ s ∈ p.1, s.hi ≤ 7 := fun p hp => hl p (by simp [hp])
    rw [List.flatMap_cons, List.nodup_append'] at hn
    rw [insertAll]
    rcases List.mem_cons.1 hp with rfl | hp'
    · rw [← extract_insertBits t p.1 (hl p (by simp)) hn.1 p.2]
      refine extract_congr _ (hl p (by simp)) fun cell hc => ?_
      refine frameBit_insertAll_outside rest hr _ cell fun q hq hcq => ?_
      exact hn.2.2 hc (List.mem_flatMap.2 ⟨q, hq, hcq⟩)
    · exact ih hr hn.2.1 _ hp'

theorem packFields_eq (c : Config) (s : DeviceState) (l : List Field) (t : Memory) :
    packFields c s l t = insertAll t (l.map fun g => (c.fieldMap g, packedValue s g)) := by
  induction l generalizing t with
  | nil => rfl
  | cons g rest ih => exact ih _

/-! ### The parts of a command frame -/

/-- The parts at positions of R70 and R71 that R251 to R253 and R255 write whatever the snapshot holds. -/
def statedParts (s : DeviceState) : List (List Seg × Nat) :=
  let units := s.tempUnits.toNat % 2
  let bits := encodeTemp units s.temp.toNat
  [(Wire.isOn, s.isOn.toNat), (Wire.mode, s.mode.toNat % 8), (Wire.tempUpper, bits.u), (Wire.tempUnits, units),
    (Wire.tempLower, bits.lo), (Wire.tempHalf, bits.h), (Wire.xFan, (xFanBit s).toNat), (Wire.turbo, s.turbo.toNat),
    (Wire.quietType, s.quietType.toNat), (Wire.fanSpeed, s.fanSpeed.toNat)]

/-- The parts of the sleep curve; SIESTA writes no index (R255). -/
def sleepParts (c : Config) (s : DeviceState) : List (List Seg × Nat) :=
  if s.sleepCurveType = sleepSiesta then [(Wire.siesta, 1)]
  else [(Wire.siesta, 0), (c.params.sleepIndex, s.sleepCurveType.toNat % 4)]

/-- The parts of regional swing (R257). -/
def swingParts (c : Config) (s : DeviceState) : List (List Seg × Nat) :=
  if s.regionalSwingPosition = swingOverflow then [(c.params.swingPosition, 0), (c.params.swingSpill, 1)]
  else [(c.params.swingPosition, s.regionalSwingPosition.toNat % 256), (c.params.swingSpill, 0)]

/-- The parts of the FIELD_MAP fields (R256, R259). -/
def mappedParts (c : Config) (s : DeviceState) : List (List Seg × Nat) :=
  Field.mapped.map fun g => (c.fieldMap g, packedValue s g)

/-- Every part of a command frame, in the order ENCODE writes them. -/
def packParts (c : Config) (s : DeviceState) : List (List Seg × Nat) :=
  statedParts s ++ sleepParts c s ++ [(Wire.minutesUntilOn, s.minutesUntilOn.toNat)] ++ swingParts c s ++ mappedParts c s

theorem pack_eq (c : Config) (s : DeviceState) (latch : BitVec 1) :
    pack c s latch = packPassthrough c s
      (insertAll (packInit.write Wire.intentByte (intentByte c latch s.useRemoteTempSensor)) (packParts c s)) := by
  unfold pack packParts mappedParts
  simp only [insertAll_append, packFields_eq]
  unfold packSwing packSleep sleepParts swingParts
  split_ifs <;> rfl

theorem statedParts_mem (c : Config) (s : DeviceState) {p : List Seg × Nat} (h : p ∈ statedParts s) :
    p ∈ packParts c s := by
  simp only [packParts, List.mem_append]
  exact .inl (.inl (.inl (.inl h)))

theorem sleepParts_mem (c : Config) (s : DeviceState) {p : List Seg × Nat} (h : p ∈ sleepParts c s) :
    p ∈ packParts c s := by
  simp only [packParts, List.mem_append]
  exact .inl (.inl (.inl (.inr h)))

theorem minutesUntilOn_mem (c : Config) (s : DeviceState) :
    (Wire.minutesUntilOn, s.minutesUntilOn.toNat) ∈ packParts c s := by
  simp [packParts]

theorem swingParts_mem (c : Config) (s : DeviceState) {p : List Seg × Nat} (h : p ∈ swingParts c s) :
    p ∈ packParts c s := by
  simp only [packParts, List.mem_append]
  exact .inl (.inr h)

theorem mappedParts_mem (c : Config) (s : DeviceState) {g : Field} (h : g ∈ Field.mapped) :
    (c.fieldMap g, packedValue s g) ∈ packParts c s := by
  simp only [packParts, List.mem_append, mappedParts, List.mem_map]
  exact .inr ⟨g, h, rfl⟩

/-- Every part stays inside its bytes, and the bytes are 5..38. -/
theorem packParts_seg (c : Config) (s : DeviceState) :
    ∀ p ∈ packParts c s, ∀ sg ∈ p.1, sg.hi ≤ 7 ∧ 5 ≤ sg.byte ∧ sg.byte ≤ 38 := by
  have h1 := c.sleep_hi
  have h2 := c.swing
  intro p hp sg hsg
  simp only [packParts, mappedParts, List.mem_append, List.mem_map] at hp
  rcases hp with (((hp | hp) | hp) | hp) | ⟨g, hg, rfl⟩
  · revert sg
    revert p
    simp only [statedParts, List.forall_mem_cons]
    simp [Wire.isOn, Wire.mode, Wire.tempUpper, Wire.xFan, Wire.turbo, Wire.tempUnits, Wire.tempLower, Wire.tempHalf,
      Wire.quietType, Wire.fanSpeed]
  · unfold sleepParts at hp
    split_ifs at hp <;> simp at hp
    · subst hp
      simp [Wire.siesta] at hsg
      simp [hsg]
    · rcases hp with rfl | rfl
      · simp [Wire.siesta] at hsg
        simp [hsg]
      · have := h1 sg hsg
        omega
  · simp at hp
    subst hp
    revert sg
    simp [Wire.minutesUntilOn]
  · unfold swingParts at hp
    split_ifs at hp <;> simp at hp <;> rcases hp with rfl | rfl <;>
      simp [Params.swingPosition, Params.swingSpill] at hsg <;> simp [hsg] <;> omega
  · have := c.mapped_seg hg hsg
    omega

/-- Each bit is covered by the parts, the pass-through mask and the intent byte together at most as often as R72(d) counts
it. -/
theorem packParts_count (c : Config) (s : DeviceState) (cell : Nat) :
    List.count cell ((packParts c s).flatMap fun p => segsCells p.1) + List.count cell c.params.pass27Cells
      ≤ List.count cell c.params.coveredCells := by
  have happ : ∀ l l' : List Seg, segsCells (l ++ l') = segsCells l ++ segsCells l' := fun l l' => List.flatMap_append
  have hsl : List.count cell ((sleepParts c s).flatMap fun p => segsCells p.1) ≤
      List.count cell (segsCells Wire.siesta) + List.count cell (segsCells c.params.sleepIndex) := by
    unfold sleepParts
    split_ifs <;> simp [List.count_append]
  have hsw : List.count cell ((swingParts c s).flatMap fun p => segsCells p.1) =
      List.count cell (segsCells c.params.swingPosition) + List.count cell (segsCells c.params.swingSpill) := by
    unfold swingParts
    split_ifs <;> simp [List.count_append]
  have hmp : ((mappedParts c s).flatMap fun p => segsCells p.1) =
      Field.mapped.flatMap fun g => segsCells (c.params.fieldMap g) := by
    rw [mappedParts, List.flatMap_map]
    rfl
  simp only [Params.coveredCells, Wire.stated, happ, List.count_append]
  simp only [packParts, List.flatMap_append, hmp, List.count_append, hsw, statedParts, List.flatMap_cons,
    List.flatMap_nil, List.append_nil]
  omega

/-- No two parts share a bit. -/
theorem packParts_nodup (c : Config) (s : DeviceState) : ((packParts c s).flatMap fun p => segsCells p.1).Nodup := by
  rw [List.nodup_iff_count_le_one]
  intro cell
  have h1 := packParts_count c s cell
  have h2 := List.nodup_iff_count_le_one.1 c.nodup cell
  omega

/-- The bits of a part are covered bits, none of them a pass-through bit. -/
theorem packParts_covered (c : Config) (s : DeviceState) {p : List Seg × Nat} (hp : p ∈ packParts c s) {cell : Nat}
    (h : cell ∈ segsCells p.1) : cell ∈ c.params.coveredCells ∧ cell ∉ c.params.pass27Cells := by
  have h1 := packParts_count c s cell
  have h2 := List.nodup_iff_count_le_one.1 c.nodup cell
  have h3 := List.one_le_count_iff.2
    (List.mem_flatMap.2 ⟨p, hp, h⟩ : cell ∈ (packParts c s).flatMap fun p => segsCells p.1)
  refine ⟨List.one_le_count_iff.1 (by omega), fun hm => ?_⟩
  have := List.one_le_count_iff.2 hm
  omega

/-- The bits of a part lie in bytes 5..38. -/
theorem packParts_byte (c : Config) (s : DeviceState) {p : List Seg × Nat} (hp : p ∈ packParts c s) {cell : Nat}
    (h : cell ∈ segsCells p.1) : 5 ≤ cell / 8 ∧ cell / 8 ≤ 38 := by
  rw [mem_segsCells] at h
  obtain ⟨sg, hsg, hc⟩ := h
  rw [Seg.mem_cells] at hc
  obtain ⟨k, h1, h2, rfl⟩ := hc
  have := packParts_seg c s p hp sg hsg
  simp only [cellOf]
  omega

theorem mem_pass27Cells (p : Params) (cell : Nat) :
    cell ∈ p.pass27Cells ↔ cell / 8 = 27 ∧ p.pass27Mask.getLsbD (cell % 8) = true := by
  simp only [Params.pass27Cells, List.mem_map, List.mem_filter, List.mem_range, cellOf, Wire.pass27Byte]
  constructor
  · rintro ⟨k, ⟨h1, h2⟩, rfl⟩
    refine ⟨by omega, ?_⟩
    rwa [show (8 * 27 + k) % 8 = k by omega]
  · rintro ⟨h1, h2⟩
    exact ⟨cell % 8, ⟨by omega, h2⟩, by omega⟩

/-- R259: pass-through sets bits of byte 27 inside the mask, and nothing else. -/
theorem frameBit_packPassthrough (c : Config) (s : DeviceState) (t : Memory) (cell : Nat) :
    frameBit (packPassthrough c s t) cell =
      (frameBit t cell || (decide (cell ∈ c.params.pass27Cells) && s.pass27.getLsbD (cell % 8))) := by
  unfold packPassthrough frameBit
  by_cases h : cell / 8 = 27
  · rw [h]
    simp only [Wire.pass27Byte, Memory.read_write_same, BitVec.getLsbD_or, BitVec.getLsbD_and, mem_pass27Cells, h,
      true_and]
    cases c.params.pass27Mask.getLsbD (cell % 8) <;> simp
  · rw [Memory.read_write_other _ _ _ (by simpa [Wire.pass27Byte] using h)]
    simp [mem_pass27Cells, h]

/-- Every part of a packed frame is extracted as it was packed. -/
theorem extract_pack (c : Config) (s : DeviceState) (latch : BitVec 1) {p : List Seg × Nat} (hp : p ∈ packParts c s) :
    extract (pack c s latch) p.1 = p.2 % 2 ^ segsWidth p.1 := by
  have hi : ∀ p ∈ packParts c s, ∀ sg ∈ p.1, sg.hi ≤ 7 := fun p hp sg hsg => (packParts_seg c s p hp sg hsg).1
  rw [← extract_insertAll (packParts c s) hi (packParts_nodup c s)
    (packInit.write Wire.intentByte (intentByte c latch s.useRemoteTempSensor)) hp, pack_eq]
  refine extract_congr _ (hi p hp) fun cell hc => ?_
  rw [frameBit_packPassthrough]
  simp [(packParts_covered c s hp hc).2]

/-- A bit of no part holds what the empty frame, the intent byte and the pass-through give it. -/
theorem frameBit_pack_outside (c : Config) (s : DeviceState) (latch : BitVec 1) (cell : Nat)
    (h : ∀ p ∈ packParts c s, cell ∉ segsCells p.1) :
    frameBit (pack c s latch) cell =
      (frameBit (packInit.write Wire.intentByte (intentByte c latch s.useRemoteTempSensor)) cell
        || (decide (cell ∈ c.params.pass27Cells) && s.pass27.getLsbD (cell % 8))) := by
  rw [pack_eq, frameBit_packPassthrough,
    frameBit_insertAll_outside _ (fun p hp sg hsg => (packParts_seg c s p hp sg hsg).1) _ _ h]

/-- Bytes 0..4 and the bytes after 38 of a packed frame. -/
theorem read_pack_outside (c : Config) (s : DeviceState) (latch : BitVec 1) {a : Nat} (ha : a < 5 ∨ 38 < a) :
    (pack c s latch).read a = (packInit.write Wire.intentByte (intentByte c latch s.useRemoteTempSensor)).read a := by
  apply read_eq_of_frameBit
  intro k hk
  have hdiv : cellOf a k / 8 = a := by
    simp only [cellOf]
    omega
  rw [frameBit_pack_outside c s latch _ fun p hp hc => by
    have := packParts_byte c s hp hc
    omega]
  have : cellOf a k ∉ c.params.pass27Cells := by
    rw [mem_pass27Cells]
    omega
  simp [this]

theorem read_packInit (a : Nat) :
    packInit.read a =
      if a = 3 then 0x01#8 else if a = 2 then 0x25#8 else if a = 1 ∨ a = 0 then 0x7E#8 else 0#8 := by
  rw [packInit, read_writeHeader]
  rfl

theorem frameBit_sealFrame (t : Memory) (n cell : Nat) (h : cell / 8 ≠ n - 1) :
    frameBit (sealFrame t n) cell = frameBit t cell := by
  unfold frameBit
  rw [read_sealFrame, if_neg h]

/-- Every part of a command frame is extracted as it was packed. -/
theorem extract_commandFrame (c : Config) (d : DeviceState) (latch : BitVec 1) {p : List Seg × Nat}
    (hp : p ∈ packParts c (normalise d)) : extract (commandFrame c d latch) p.1 = p.2 % 2 ^ segsWidth p.1 := by
  rw [← extract_pack c _ latch hp]
  refine extract_congr _ (fun sg hsg => (packParts_seg c _ p hp sg hsg).1) fun cell hc => ?_
  have := packParts_byte c _ hp hc
  exact frameBit_sealFrame _ _ _ (by simp only [cmdFrameLen]; omega)

/-! ### The canonical form of a frame under construction -/

theorem writeHeader_wf {t : Memory} (h : t.wf = true) (len type : Byte) : (writeHeader t len type).wf = true := by
  unfold writeHeader
  exact Memory.write_wf (Memory.write_wf (Memory.write_wf (Memory.write_wf h (by decide) _) (by decide) _)
    (by decide) _) (by decide) _

theorem insertAll_wf (l : List (List Seg × Nat)) (hl : ∀ p ∈ l, ∀ s ∈ p.1, s.byte < bufferCap) (t : Memory)
    (h : t.wf = true) : (insertAll t l).wf = true := by
  induction l generalizing t with
  | nil => exact h
  | cons p rest ih =>
    exact ih (fun q hq => hl q (by simp [hq])) _ (insertBits_wf t p.1 p.2 (hl p (by simp)) h)

theorem commandFrame_wf (c : Config) (d : DeviceState) (latch : BitVec 1) : (commandFrame c d latch).wf = true := by
  unfold commandFrame sealFrame
  refine Memory.write_wf ?_ (by decide) _
  rw [pack_eq]
  unfold packPassthrough
  refine Memory.write_wf (insertAll_wf _ (fun p hp sg hsg => ?_) _ ?_) (by decide) _
  · have := packParts_seg c _ p hp sg hsg
    simp only [bufferCap]
    omega
  · exact Memory.write_wf (writeHeader_wf rfl _ _) (by decide) _

theorem remoteTempFrame_wf (c : Config) (d : DeviceState) : (remoteTempFrame c d).wf = true := by
  unfold remoteTempFrame sealFrame
  refine Memory.write_wf (insertBits_wf _ _ _ (fun sg hsg => ?_) ?_) (by decide) _
  · have := c.mapped_seg (g := .remoteTempVal) (by decide) hsg
    simp only [bufferCap]
    omega
  · exact Memory.write_wf (writeHeader_wf rfl _ _) (by decide) _

end Sys2Proof.Machine
end

