-- ==== Sys2Proof/Tests/Slice0.lean ====
section
/-! SUPPORT. The model's own tests. Every expected value comes from spec/95_test_vectors.md (its row is named) or from the
rule cited. Tests of DECODE and ENCODE run the meanings' own functions under `({} : Config)`, the sample parameter set, since
`Config.machine` cannot be evaluated. The theorems `witness_…` show that the hypotheses of each obligation can be met. -/

namespace Sys2Proof.Tests

set_option Elab.async false

open Sys2Proof Sys2Proof.Machine

/-! ### Helpers -/

/-- Bytes written to a buffer from an index on. -/
def stored : Nat → List Byte → Memory → Memory
  | _, [], m => m
  | a, b :: bs, m => stored (a + 1) bs (m.write a b)

/-- Reset, with these bytes received. -/
def received (bs : List Byte) : State :=
  { State.reset with
    rx := stored 0 bs []
    rxlen := Fin.ofNat 65 bs.length }

/-- Reset, with n zero bytes in RX. -/
def receivedLen (n : Fin 65) : State := { State.reset with rxlen := n }

/-- The result is a next state with this property. -/
def answers (r : StepResult) (p : State → Bool) : Bool :=
  match r with
  | .next t => p t
  | .fault _ => false
  | .refused _ => false

/-- One step on a presented word. -/
def stepOn (w : Word) (s : State) : StepResult := step (present s w)

/-- The result is `ok(r)`. -/
def okWith (r : Half) (t : State) : Bool := t.err == .ok && t.result == r

/-- The result is `raise e`. -/
def raised (e : ErrCode) (t : State) : Bool := t.err == e && t.result == 0

/-- The 51-byte frame of vector E11. -/
def frameE11 : Memory := [(0, 0x7E), (1, 0x7E), (2, 0x30), (3, 0x31), (8, 0x94), (50, 0xF5)]

/-- The frame of vector E11 with type 0x32 (table 2.5). -/
def frameE11b : Memory := [(0, 0x7E), (1, 0x7E), (2, 0x30), (3, 0x32), (8, 0x94), (50, 0xF6)]

/-- The frame of program P2. -/
def frameP2 : Memory :=
  [(0, 0x7E), (1, 0x7E), (2, 0x30), (3, 0x31), (8, 0x90), (9, 0x60), (10, 0x08), (14, 0x08)]
  ++ [(16, 0x2C), (17, 0x10), (22, 0x03), (50, 0xA0)]

/-- Reset, with a frame of 51 bytes received and validated. -/
def validated (m : Memory) : State :=
  { State.reset with
    rx := m
    rxlen := 51
    rxok := true }

/-- Bytes of a frame replaced. -/
def patched (m : Memory) : List (Nat × Byte) → Memory
  | [] => m
  | p :: ps => patched (m.write p.1 p.2) ps

/-- The snapshot of the E11 frame with bytes replaced, decoded from the reset snapshot. -/
def decoded (ps : List (Nat × Byte)) : DeviceState :=
  decodeSnapshot {} (patched frameE11 ps) DeviceState.reset

/-- A valid snapshot: 24 degrees C, everything else at its reset value or 0. -/
def snapshotOk : DeviceState :=
  { DeviceState.reset with
    valid := 1
    temp := 48
    tempUnits := 0
    mode := 0 }

/-- Reset, with that snapshot. -/
def ready : State := { State.reset with ds := snapshotOk }

/-! ### Ill-formed parameter sets are refused (R72 to R76, R254) -/

theorem test_sample_is_legal : Params.sample.wf = true := Params.sample_legal

/-- The sample set with one FIELD_MAP entry replaced. -/
def mapping (g : Field) (segs : List Seg) : Params :=
  { Params.sample with fieldMap := fun f => if f = g then segs else Params.sample.fieldMap f }

/-- R72(a): a bit above 7, and a segment upside down. -/
theorem test_refuses_bad_bits :
    (mapping .light [⟨34, 8, 8⟩]).segmentsWf = false ∧ (mapping .light [⟨34, 8, 8⟩]).wf = false
    ∧ (mapping .light [⟨34, 2, 3⟩]).segmentsWf = false ∧ (mapping .light [⟨34, 2, 3⟩]).wf = false := by
  decide +kernel

/-- R72(b): byte 4 and byte 39. -/
theorem test_refuses_bad_bytes :
    (mapping .light [⟨4, 2, 2⟩]).segmentsWf = false ∧ (mapping .light [⟨4, 2, 2⟩]).wf = false
    ∧ (mapping .light [⟨39, 2, 2⟩]).segmentsWf = false ∧ (mapping .light [⟨39, 2, 2⟩]).wf = false := by
  decide +kernel

/-- R72(c): a field one bit too narrow, and an OPEN width of 0 or above the register's. -/
theorem test_refuses_bad_widths :
    (mapping .clock [⟨36, 5, 0⟩, ⟨37, 7, 0⟩]).widthsAgree = false
    ∧ (mapping .clock [⟨36, 5, 0⟩, ⟨37, 7, 0⟩]).wf = false
    ∧ ({ Params.sample with wHa := 9 } : Params).openWidthsWf = false
    ∧ ({ Params.sample with wNoise := 0 } : Params).openWidthsWf = false
    ∧ ({ Params.sample with wNoise := 0 } : Params).wf = false := by
  decide +kernel

/-- R72(d): two fields on one bit, and a field on a bit of R70. -/
theorem test_refuses_overlap :
    (mapping .light [⟨34, 3, 3⟩]).wf = false ∧ (mapping .light [⟨8, 7, 7⟩]).wf = false := by
  have h1 : (mapping .light [⟨34, 3, 3⟩]).disjoint = false := by
    refine decide_eq_false fun h => ?_
    have hc : (mapping .light [⟨34, 3, 3⟩]).coveredCells.count (cellOf 34 3) = 2 := by decide +kernel
    have := List.nodup_iff_count_le_one.1 h (cellOf 34 3)
    omega
  have h2 : (mapping .light [⟨8, 7, 7⟩]).disjoint = false := by
    refine decide_eq_false fun h => ?_
    have hc : (mapping .light [⟨8, 7, 7⟩]).coveredCells.count (cellOf 8 7) = 2 := by decide +kernel
    have := List.nodup_iff_count_le_one.1 h (cellOf 8 7)
    omega
  simp [Params.wf, h1, h2]

/-- R254: INTENT_BASE with bit 1 or bit 6. -/
theorem test_refuses_intent_base :
    ({ Params.sample with intentBase := 0x02 } : Params).wf = false
    ∧ ({ Params.sample with intentBase := 0x40 } : Params).wf = false := by
  decide +kernel

/-- R74, R75: sleep bits outside their sets, and the spill bit in the position byte. -/
theorem test_refuses_sleep_and_swing :
    ({ Params.sample with sleepB8 := 4 } : Params).sleepWf = false
    ∧ ({ Params.sample with sleepB20 := 2 } : Params).sleepWf = false
    ∧ ({ Params.sample with swingSpillByte := 32 } : Params).swingWf = false
    ∧ ({ Params.sample with sleepB8 := 4 } : Params).wf = false
    ∧ ({ Params.sample with sleepB20 := 2 } : Params).wf = false
    ∧ ({ Params.sample with swingSpillByte := 32 } : Params).wf = false := by
  decide +kernel

/-! ### Decoding words written out from R100 to R103 -/

theorem test_decode_buffer_words :
    decode 0x00FFFFFF#32 = .ok .nop ∧ decode 0x01000000#32 = .ok .rxclr
    ∧ decode 0x02000011#32 = .ok (.rxpush 0x11#8) ∧ decode 0x03050000#32 = .ok (.rxrd 5#8)
    ∧ decode 0x04000000#32 = .ok .txclr ∧ decode 0x05400000#32 = .ok (.txput 0x40#8 0#8)
    ∧ decode 0x06270000#32 = .ok (.txrd 0x27#8) := by decide

theorem test_decode_frame_words :
    decode 0x10000000#32 = .ok .cksum ∧ decode 0x11000000#32 = .ok .hdrchk
    ∧ decode 0x12000000#32 = .ok .validate ∧ decode 0x1301003A#32 = .ok (.wrap 1#8 58#8)
    ∧ decode 0x140000FF#32 = .ok .query := by decide

theorem test_decode_codec_words :
    decode 0x20000000#32 = .ok .decode ∧ decode 0x21010000#32 = .ok (.encode 1#1)
    ∧ decode 0x21FE0000#32 = .ok (.encode 0#1) ∧ decode 0x22000000#32 = .ok .encrt := by decide

theorem test_decode_field_words :
    decode 0x30380000#32 = .ok (.rdf 0x38#8) ∧ decode 0x31320101#32 = .ok (.wrf 0x32#8 0x0101#16)
    ∧ decode 0x4001002A#32 = .ok (.tdec 1#1 10#4 0#1 1#1)
    ∧ decode 0x40000010#32 = .ok (.tdec 0#1 0#4 1#1 0#1)
    ∧ decode 0x41010090#32 = .ok (.tenc 1#1 144#8) ∧ decode 0xF0000000#32 = .ok .srst := by decide

theorem test_decode_illegal_words :
    decode 0x07000000#32 = .error (.illegalOp 0x07#8) ∧ decode 0x15000000#32 = .error (.illegalOp 0x15#8)
    ∧ decode 0xFF123456#32 = .error (.illegalOp 0xFF#8)
    ∧ decode 0xF1000000#32 = .error (.illegalOp 0xF1#8) := by decide

/-- Table 2.8: an illegal word leaves ERR 11 and changes nothing else. -/
theorem test_illegal_step :
    answers (stepOn 0xFF123456 ready) (fun t =>
      decide (t = { ready with
        err := .illegalCommand
        index := 1 })) = true := by decide +kernel

/-- R105, R106: lines of assembler text and the words of spec/95_test_vectors.md. -/
theorem test_assembler :
    assembleLine "RXPUSH 0x7E" = some [0x0200007E#32]
    ∧ assembleLine "WRF mode, 7" = some [0x31040007#32]
    ∧ assembleLine "TENC F, 144" = some [0x41010090#32]
    ∧ assembleLine "ENCODE" = some [0x21010000#32]
    ∧ assembleLine "SEND 0x01, 0xAA, 0x55" =
        some [0x04000000#32, 0x050400AA#32, 0x05050055#32, 0x13010002#32] := by decide +kernel

/-! ### Buffer access (table 2.1) -/

theorem test_nop : answers (stepOn 0x00000000 { ready with err := .shortBuffer }) (okWith 0) = true := by
  decide +kernel

theorem test_rxclr :
    answers (stepOn 0x01000000 (validated frameE11)) (fun t =>
      okWith 0 t && t.rx == [] && t.rxlen == 0 && !t.rxok) = true := by decide +kernel

theorem test_rxpush_last :
    answers (stepOn 0x02000011 (receivedLen 63)) (fun t =>
      okWith 64 t && t.rx == [(63, 0x11)] && t.rxlen == 64) = true := by decide +kernel

theorem test_rxpush_overflow :
    answers (stepOn 0x02000011 (receivedLen 64)) (fun t =>
      raised .bufferOverflow t && t.rx == [] && t.rxlen == 64) = true := by decide +kernel

theorem test_rxrd :
    answers (stepOn 0x03040000 (received [0x7E, 0x7E, 0x02, 0x02, 0x04])) (okWith 4) = true
    ∧ answers (stepOn 0x03050000 (received [0x7E, 0x7E, 0x02, 0x02, 0x04])) (raised .badOperand) = true := by
  decide +kernel

theorem test_txclr :
    answers (stepOn 0x04000000 { ready with tx := frameE11, txlen := 51 }) (fun t =>
      okWith 0 t && t.tx == [] && t.txlen == 0) = true := by decide +kernel

theorem test_txput :
    answers (stepOn 0x050A0033 { ready with txlen := 5 }) (fun t =>
      okWith 0 t && t.tx == [(10, 0x33)] && t.txlen == 0) = true
    ∧ answers (stepOn 0x05400000 { ready with txlen := 5 }) (fun t =>
      raised .badOperand t && t.txlen == 5) = true := by decide +kernel

theorem test_txrd :
    answers (stepOn 0x06000000 ready) (raised .badOperand) = true
    ∧ answers (stepOn 0x06040000 { ready with tx := [(4, 0x04)], txlen := 5 }) (okWith 4) = true := by
  decide +kernel

/-! ### Frame layer (tables 2.2 and 2.3) -/

theorem test_cksum :
    answers (stepOn 0x10000000 (received [0x7E, 0x7E, 0x05, 0x01, 0xFF, 0xFF, 0xFF, 0x03])) (okWith 0x03) = true
    ∧ answers (stepOn 0x10000000 (received [0x7E, 0x7E, 0x01, 0x01])) (okWith 0x01) = true
    ∧ answers (stepOn 0x10000000 (received [0x7E, 0x7E, 0x02])) (raised .shortBuffer) = true := by
  decide +kernel

/-- Vector E3. -/
theorem test_hdrchk :
    answers (stepOn 0x11000000 (received [0x7E, 0x7E, 0x3C])) (okWith 0x3C) = true
    ∧ answers (stepOn 0x11000000 (received [0x7E, 0x7E, 0x3D])) (raised .malformedHeader) = true
    ∧ answers (stepOn 0x11000000 (received [0x7E, 0x7F, 0x02])) (raised .malformedHeader) = true
    ∧ answers (stepOn 0x11000000 (received [0x7E, 0x7E])) (raised .shortBuffer) = true := by decide +kernel

theorem test_validate_passes :
    answers (stepOn 0x12000000 (received [0x7E, 0x7E, 0x02, 0x02, 0x04])) (fun t => okWith 5 t && t.rxok) = true
    ∧ answers (stepOn 0x12000000 (received [0x7E, 0x7E, 0x01, 0x01])) (fun t => okWith 4 t && t.rxok) = true
    ∧ answers (stepOn 0x12000000 { validated frameP2 with rxok := false }) (fun t =>
        okWith 51 t && t.status == 0x80) = true := by decide +kernel

theorem test_validate_fails :
    answers (stepOn 0x12000000 (received [0x7E, 0x7E, 0x02, 0x02, 0x05])) (raised .checksumMismatch) = true
    ∧ answers (stepOn 0x12000000 (received [0x7E, 0x7E, 0x00])) (raised .shortBuffer) = true
    ∧ answers (stepOn 0x12000000 (received [0x7E, 0x7E, 0x02, 0x02])) (raised .lengthMismatch) = true
    ∧ answers (stepOn 0x12000000 (received [0x7E, 0x7E, 0x3D, 0x00])) (raised .malformedHeader) = true := by
  decide +kernel

theorem test_wrap :
    answers (stepOn 0x13010002 { ready with tx := [(4, 0xAA), (5, 0x55)] }) (fun t =>
      okWith 7 t && t.txlen == 7
        && t.tx == [(0, 0x7E), (1, 0x7E), (2, 0x04), (3, 0x01), (4, 0xAA), (5, 0x55), (6, 0x04)]) = true
    ∧ answers (stepOn 0x1301003B { ready with txlen := 5 }) (fun t =>
      raised .bufferOverflow t && t.tx == [] && t.txlen == 5) = true := by decide +kernel

theorem test_wrap_longest :
    answers (stepOn 0x1301003A { ready with tx := stored 4 (List.replicate 58 0xFF) [] }) (fun t =>
      okWith 63 t && t.tx.read 2 == 0x3C && t.tx.read 62 == 0x03 && t.txlen == 63) = true := by decide +kernel

/-- Vector E1. -/
theorem test_query :
    answers (stepOn 0x14000000 ready) (fun t =>
      okWith 5 t && t.txlen == 5
        && t.tx == [(0, 0x7E), (1, 0x7E), (2, 0x02), (3, 0x02), (4, 0x04)]) = true := by decide +kernel

/-! ### Field access and soft reset (table 2.4) -/

theorem test_rdf :
    answers (stepOn 0x30040000 State.reset) (okWith 8) = true
    ∧ answers (stepOn 0x30050000 State.reset) (okWith 15) = true
    ∧ answers (stepOn 0x30380000 State.reset) (raised .badOperand) = true := by decide +kernel

theorem test_wrf_accepts :
    answers (writeField {} 0x04 7 ready) (fun t => okWith 0 t && t.ds.mode == 7) = true
    ∧ answers (writeField {} 0x05 15 ready) (fun t => okWith 0 t && t.ds.fanState == 15) = true
    ∧ answers (writeField {} 0x14 128 ready) (fun t => okWith 0 t && t.ds.sleepCurveType == 128) = true
    ∧ answers (writeField {} 0x32 256 ready) (fun t => okWith 0 t && t.ds.regionalSwingPosition == 256) = true
    ∧ answers (writeField {} 0x23 32767 ready) (fun t => okWith 0 t && t.ds.clock == 32767) = true := by
  decide +kernel

theorem test_wrf_refuses :
    ([(0x04, 8), (0x00, 1), (0x05, 11), (0x14, 4), (0x32, 257), (0x20, 2048), (0x23, 32768), (0x38, 0)]
      : List (Byte × Half)).all (fun p => answers (writeField {} p.1 p.2 ready) (fun t =>
        raised .badOperand t && decide (t.ds = snapshotOk))) = true := by decide +kernel

theorem test_srst :
    answers (stepOn 0xF0000000 { validated frameE11 with ds := snapshotOk, err := .badOperand }) (fun t =>
      decide (t = { State.reset with index := 1 })) = true := by decide +kernel

/-! ### Decode (table 2.5, vectors E5, E8, E11, program P2) -/

/-- Vector E11 and the status type 0x32. -/
theorem test_decode_frame_e11 :
    answers (decodeFrame {} (validated frameE11)) (fun t =>
      okWith 0 t && t.ds.isOn == 1 && t.ds.mode == 1 && t.status == 0xC0 && t.ds.tempUnits == 0
        && t.ds.temp == 32 && t.ds.fanState == 0) = true
    ∧ decodeSnapshot {} frameE11b DeviceState.reset = decodeSnapshot {} frameE11 DeviceState.reset := by
  decide +kernel

/-- Program P2, the whole snapshot. -/
theorem test_decode_frame_p2 :
    decodeSnapshot {} frameP2 DeviceState.reset = { DeviceState.reset with
      valid := 1
      isOn := 1
      mode := 1
      tempUnits := 0
      temp := 45
      xFan := 1
      fanSpeed := 3
      fanState := 3
      minutesUntilOn := 300 } := by decide +kernel

/-- Table 2.5, fan rows: (turbo, quiet_type, fan_state, WARN_QUIET3, WARN_UNREC). -/
theorem test_decode_fan_rows :
    ([([(10, 0x01)], 1, 0, 6, false, false), ([(10, 0x01), (20, 0x08)], 1, 2, 6, false, false),
      ([(10, 0x01), (20, 0x0C)], 1, 3, 6, false, false), ([(20, 0x04)], 0, 1, 8, false, false),
      ([(20, 0x08)], 0, 2, 7, false, false), ([(20, 0x0C)], 0, 3, 15, true, false),
      ([(22, 0x05)], 0, 0, 5, false, false), ([(22, 0x06)], 0, 0, 10, false, true),
      ([(22, 0x07)], 0, 0, 10, false, true), ([(22, 0xF8)], 0, 0, 0, false, false)]
      : List (List (Nat × Byte) × Nat × Nat × Nat × Bool × Bool)).all (fun r =>
        let n := decoded r.1
        (n.turbo.toNat, n.quietType.toNat, n.fanState.toNat, warnsQuiet3 n, warnsUnrec n) == r.2) = true := by
  decide +kernel

/-- Table 2.5, the other rows: the field id and its value. -/
theorem test_decode_other_rows :
    ([([(20, 0x80)], [(.sleepCurveType, 128)]), ([(10, 0x08)], [(.xFan, 1), (.xFanForHeat, 0)]),
      ([(8, 0xA4), (10, 0x08)], [(.xFan, 1), (.xFanForHeat, 0)]),
      ([(8, 0xC4), (10, 0x08)], [(.xFan, 0), (.xFanForHeat, 1)]), ([(8, 0x14)], [(.isOn, 0), (.mode, 1)]),
      ([(8, 0xF4)], [(.mode, 7)]), ([(9, 0xE0)], [(.temp, 60)]), ([(9, 0xF0), (14, 0x08)], [(.temp, 61)]),
      ([(11, 0x80)], [(.temp, 122)]), ([(9, 0x60), (11, 0xC0)], [(.temp, 144)]),
      ([(9, 0x60), (11, 0x80), (14, 0x08)], [(.temp, 142)]),
      ([(16, 0xFF), (17, 0x8F)], [(.minutesUntilOn, 255)]), ([(17, 0x10)], [(.minutesUntilOn, 256)]),
      ([(16, 0xFF), (17, 0xFF)], [(.minutesUntilOn, 2047)])]
      : List (List (Nat × Byte) × List (Field × Half))).all (fun r =>
        r.2.all fun p => (decoded r.1).get p.1 == p.2) = true := by decide +kernel

/-- Table 2.5, preconditions, and the fan mode that leaves both X-Fan registers. -/
theorem test_decode_preconditions :
    answers (decodeFrame {} { validated frameE11 with rxok := false }) (raised .unvalidatedFrame) = true
    ∧ answers (decodeFrame {} { validated frameE11 with rxlen := 40 }) (raised .truncatedFrame) = true
    ∧ answers (decodeFrame {} (validated (patched frameE11 [(3, 0x01)]))) (raised .unexpectedFrameType) = true
    ∧ (decodeSnapshot {} (patched frameE11 [(8, 0xB4), (10, 0x08)]) { snapshotOk with xFan := 1 }).xFan = 1
    ∧ (decodeSnapshot {} (patched frameE11 [(8, 0xB4), (10, 0x08)]) { snapshotOk with xFan := 1 }).xFanForHeat
        = 0 := by decide +kernel

/-- Vector E10: swing position 256 through the spill bit, the position byte whatever it is. -/
theorem test_decode_swing :
    (decoded [(32, 0x12), (33, 0x01)]).regionalSwingPosition = 256
    ∧ (decoded [(32, 0xFF), (33, 0x00)]).regionalSwingPosition = 255 := by decide +kernel

/-! ### Encode (table 2.6, vectors E9, E10, E12, E14, program P3) -/

/-- Vector E12. -/
theorem test_encode_e12 :
    commandFrame {} { decoded [] with mode := 4, tempUnits := 1, temp := 144, fanState := 5 } 1 =
      [(0, 0x7E), (1, 0x7E), (2, 0x25), (3, 0x01), (4, 0x02), (8, 0xC0), (9, 0x60), (11, 0xC0), (22, 0x05),
        (39, 0x0D)] := by decide +kernel

/-- Program P3. -/
theorem test_encode_p3 :
    commandFrame {} { decodeSnapshot {} frameP2 DeviceState.reset with mode := 4, fanState := 6 } 0 =
      [(0, 0x7E), (1, 0x7E), (2, 0x25), (3, 0x01), (8, 0xC0), (9, 0x60), (10, 0x01)]
      ++ [(14, 0x08), (16, 0x2C), (17, 0x10), (22, 0x03), (39, 0x8E)] := by decide +kernel

/-- Table 2.6, normalisation rows: (is_on, mode, fan_state, turbo, quiet_type, fan_speed, enable, heating, cooling) and
(turbo, quiet_type, fan_speed) after it. -/
theorem test_normalise_rows :
    ([([1, 1, 6, 0, 1, 2, 0, 0, 0], [1, 1, 2]), ([1, 1, 8, 1, 0, 4, 0, 0, 0], [1, 1, 4]),
      ([1, 1, 7, 0, 0, 3, 0, 0, 0], [0, 2, 3]), ([1, 1, 3, 1, 2, 0, 0, 0, 0], [0, 0, 3]),
      ([1, 1, 0, 1, 1, 5, 0, 0, 0], [0, 0, 0]), ([1, 1, 15, 1, 2, 4, 0, 0, 0], [1, 2, 4]),
      ([1, 1, 10, 0, 0, 7, 0, 0, 0], [0, 0, 7]), ([1, 4, 6, 1, 0, 1, 1, 38, 0], [0, 0, 5]),
      ([1, 4, 1, 0, 0, 1, 1, 36, 0], [0, 0, 4]), ([1, 1, 5, 0, 0, 5, 1, 38, 28], [0, 0, 0]),
      ([1, 2, 5, 0, 0, 5, 1, 38, 38], [0, 0, 5]), ([1, 4, 7, 0, 0, 0, 1, 31, 0], [0, 2, 2]),
      ([0, 1, 7, 0, 0, 0, 0, 0, 0], [0, 2, 0]), ([0, 1, 15, 0, 2, 0, 0, 0, 0], [0, 0, 0]),
      ([0, 4, 15, 1, 0, 3, 1, 33, 0], [0, 0, 3])] : List (List Half × List Nat)).all (fun r =>
        let fields : List Field := [.isOn, .mode, .fanState, .turbo, .quietType, .fanSpeed, .noiseControlEnable,
          .noiseControlHeating, .noiseControlCooling]
        let s := normalise ((fields.zip r.1).foldl (fun d p => d.set p.1 p.2) snapshotOk)
        [s.turbo.toNat, s.quietType.toNat, s.fanSpeed.toNat] == r.2) = true := by decide +kernel

/-- Vector E14. -/
theorem test_noise_speed :
    [28, 29, 30, 31, 32, 33, 35, 36, 37, 38, 39, 255].map noiseSpeed = [0, 1, 1, 2, 2, 3, 3, 4, 4, 5, 5, 5] := by
  decide

/-- Table 2.6: the off/QUIET frame, and "other packing" under the sample set. -/
theorem test_encode_packing :
    commandFrame {} { snapshotOk with mode := 1, fanState := 7 } 1 =
      [(0, 0x7E), (1, 0x7E), (2, 0x25), (3, 0x01), (4, 0x02), (8, 0x10), (9, 0x80), (20, 0x08), (39, 0xC0)]
    ∧ (commandFrame {} { snapshotOk with isOn := 1, sleepCurveType := 128 } 0).read 20 = 0x80
    ∧ (commandFrame {} { snapshotOk with isOn := 1, sleepCurveType := 3 } 0).read 20 = 0x10
    ∧ (commandFrame {} { snapshotOk with regionalSwingPosition := 256 } 0).read 32 = 0x00
    ∧ (commandFrame {} { snapshotOk with regionalSwingPosition := 256 } 0).read 33 = 0x01
    ∧ (commandFrame {} { snapshotOk with regionalSwingPosition := 255 } 0).read 32 = 0xFF
    ∧ (commandFrame {} { snapshotOk with minutesUntilOn := 2047 } 0).read 17 = 0x70
    ∧ (commandFrame {} { snapshotOk with useRemoteTempSensor := 1 } 0).read 4 = 0x40 := by decide +kernel

/-- Table 2.6, mode-gated writes: byte 10 bit 3 and the heat_assist byte of the sample set. -/
theorem test_encode_gates :
    ([(1, 0x08, 0x00), (2, 0x08, 0x00), (4, 0x08, 0x5A), (3, 0x00, 0x00), (0, 0x00, 0x00)]
      : List (BitVec 4 × Byte × Byte)).all (fun r =>
        let t := commandFrame {} { snapshotOk with mode := r.1, xFan := 1, xFanForHeat := 1, heatAssist := 0x5A } 0
        t.read 10 == r.2.1 && t.read 21 == r.2.2) = true := by decide +kernel

/-- Table 2.6: the ENCRT frame, and the refusal while VALID = 0. -/
theorem test_encrt :
    remoteTempFrame {} snapshotOk =
      [(0, 0x7E), (1, 0x7E), (2, 0x25), (3, 0x01), (4, 0x40), (39, 0x66)]
    ∧ answers (emitFrame { State.reset with tx := [(4, 0x04)], txlen := 5 } []) (fun t =>
        raised .invalidStateForEncode t && t.txlen == 0 && t.tx == [(4, 0x04)]) = true := by decide +kernel

/-! ### Temperature (table 2.7, vectors E6, E13) -/

theorem test_tenc :
    ([(0x41000020, 0x00), (0x41000021, 0x20), (0x4100002D, 0x26), (0x4100003D, 0x2E), (0x4100003E, 0x0E),
      (0x4100001F, 0x20), (0x41010079, 0x00), (0x41010091, 0x07), (0x410100AC, 0x0E), (0x41010090, 0x16),
      (0x4101008E, 0x06), (0x410100FF, 0x0E)] : List (Word × Half)).all (fun p =>
        answers (stepOn p.1 State.reset) (okWith p.2)) = true := by decide +kernel

theorem test_tdec :
    ([(0x4000002E, 61), (0x40000010, 32), (0x40010005, 138), (0x40010015, 140), (0x4001002A, 156),
      (0x40010010, 122), (0x4001001F, 172)] : List (Word × Half)).all (fun p =>
        answers (stepOn p.1 State.reset) (okWith p.2)) = true := by decide +kernel

/-! ### The hypotheses of the obligations can be met

One theorem per obligation that has hypotheses, each clause at a boundary of its range. -/

theorem witness_StepRunsTheDecodedCommand :
    ({ State.reset with pending := [0x140000FF#32] } : State).pending = 0x140000FF#32 :: []
    ∧ decode 0x140000FF#32 = .ok .query := by decide

/-- Both ends of every range of R103, and their legal neighbours. -/
theorem witness_IllegalCommandChangesNothingElse :
    (∀ op ∈ [0x07, 0x0F, 0x15, 0x1F, 0x23, 0x2F, 0x32, 0x3F, 0x42, 0xEF, 0xF1, 0xFF],
      IllegalOp ((cmdWord (BitVec.ofNat 8 op) 0 0).toNat / 2 ^ 24))
    ∧ (∀ op ∈ [0x06, 0x10, 0x14, 0x20, 0x22, 0x30, 0x31, 0x40, 0x41, 0xF0],
      ¬ IllegalOp ((cmdWord (BitVec.ofNat 8 op) 0 0).toNat / 2 ^ 24)) := by
  unfold IllegalOp
  decide +kernel

theorem witness_EveryCommandAndStepCompletes :
    ({ State.reset with pending := [0xFF123456#32] } : State).pending = 0xFF123456#32 :: [] := rfl

/-- A value that WRF accepts under every parameter set. -/
theorem inDomain_zero (c : Config) (f : Field) (h : f ≠ .valid) : inDomain c f 0 = true := by
  have hp : ∀ n, decide ((0 : Half).toNat < 2 ^ n) = true := fun n => by simp
  cases f <;> first | exact absurd rfl h | exact hp _ | simp [inDomain]

/-- The snapshot of the witnesses is legal under every parameter set. -/
theorem snapshotOk_legal (c : Config) : SnapshotLegal c snapshotOk := by
  refine ⟨by decide, by decide, fun _ => by decide, fun f h1 h2 h3 => ?_⟩
  by_cases h4 : f = .fanState
  · subst h4
    rfl
  by_cases h5 : f = .temp
  · subst h5
    rfl
  have hz : snapshotOk.get f = 0 := by
    cases f <;> first | rfl | exact absurd rfl (by assumption) | skip
    next k => revert k; decide
  rw [hz]
  exact inDomain_zero c f h1

/-- The E11 frame is well formed. -/
theorem frameE11_wellFramed : WellFramed frameE11 51 := wellFramed_of_validateError (by decide +kernel)

/-- The E11 frame of type 0x32 is well formed. -/
theorem frameE11b_wellFramed : WellFramed frameE11b 51 := wellFramed_of_validateError (by decide +kernel)

/-- The two shortest well-formed frames of table 2.2. -/
theorem shortFrames_wellFramed :
    WellFramed (received [0x7E, 0x7E, 0x01, 0x01]).rx 4
    ∧ WellFramed (received [0x7E, 0x7E, 0x02, 0x02, 0x04]).rx 5 :=
  ⟨wellFramed_of_validateError (by decide +kernel), wellFramed_of_validateError (by decide +kernel)⟩

/-- A state that meets the invariant and has a validated frame, an offered frame and a valid snapshot; and a step of it. -/
theorem witness_StepKeepsTheInvariant :
    ∃ s t : State, s.Inv ∧ s.rxok = true ∧ s.txlen.val ≠ 0 ∧ s.ds.valid = 1 ∧ s.pending ≠ [] ∧ step s = .next t := by
  refine ⟨{ validated frameE11 with
    tx := (received [0x7E, 0x7E, 0x02, 0x02, 0x04]).rx
    txlen := 5
    ds := snapshotOk
    pending := [0x10000000] }, _, ⟨by decide, by decide, ?_, fun _ => frameE11_wellFramed,
      fun _ => shortFrames_wellFramed.2, snapshotOk_legal _⟩, rfl, by decide, rfl, by decide, rfl⟩
  intro a ha
  exact Memory.read_of_not_listed _ _ fun c hc => by
    have : c.1 ≤ 50 := by revert c; decide
    change 51 ≤ a at ha
    omega

theorem witness_RxpushAppendsOneByteOrOverflows :
    (receivedLen 63).rxlen.val < 64 ∧ State.reset.rxlen.val < 64 ∧ (receivedLen 64).rxlen.val = 64 := by decide

theorem witness_RxrdReadsBelowRxlen :
    (4#8).toNat < (receivedLen 5).rxlen.val ∧ (receivedLen 5).rxlen.val ≤ (5#8).toNat
    ∧ (63#8).toNat < (receivedLen 64).rxlen.val ∧ (receivedLen 64).rxlen.val ≤ (64#8).toNat := by decide

theorem witness_TxputStagesOneByte : (63#8).toNat < 64 ∧ 64 ≤ (64#8).toNat := by decide

theorem witness_TxrdReadsTheOfferedFrame :
    (4#8).toNat < ({ State.reset with txlen := 5 } : State).txlen.val
    ∧ ({ State.reset with txlen := 5 } : State).txlen.val ≤ (5#8).toNat := by decide

theorem witness_CksumSumsFromTheLengthByte : 4 ≤ (receivedLen 4).rxlen.val ∧ (receivedLen 3).rxlen.val < 4 := by
  decide

/-- The three bytes a header check looks at. -/
def HeaderOk (s : State) : Prop := s.rx.read 0 = 0x7E#8 ∧ s.rx.read 1 = 0x7E#8 ∧ (s.rx.read 2).toNat ≤ 60

theorem witness_HdrchkReportsTheLengthByte :
    (3 ≤ (received [0x7E, 0x7E, 0x3C]).rxlen.val ∧ HeaderOk (received [0x7E, 0x7E, 0x3C]))
    ∧ (3 ≤ (received [0x7E, 0x7E, 0x3D]).rxlen.val ∧ ¬ HeaderOk (received [0x7E, 0x7E, 0x3D]))
    ∧ (received [0x7E, 0x7E]).rxlen.val < 3 := by
  unfold HeaderOk
  decide

/-- Table 2.2, one frame per clause. -/
theorem witness_ValidateReportsTheFirstFailedCheck :
    (received [0x7E, 0x7E]).rxlen.val < 3
    ∧ (3 ≤ (received [0x7E, 0x7E, 0x3D]).rxlen.val ∧ ¬ HeaderOk (received [0x7E, 0x7E, 0x3D]))
    ∧ (let s := received [0x7E, 0x7E, 0x02, 0x02]
       HeaderOk s ∧ 3 ≤ s.rxlen.val ∧ s.rxlen.val ≠ 3 + (s.rx.read 2).toNat)
    ∧ (let s := received [0x7E, 0x7E, 0x00]
       HeaderOk s ∧ s.rxlen.val = 3 ∧ s.rxlen.val = 3 + (s.rx.read 2).toNat)
    ∧ (let s := received [0x7E, 0x7E, 0x01, 0x02]
       HeaderOk s ∧ 4 ≤ s.rxlen.val ∧ s.rxlen.val = 3 + (s.rx.read 2).toNat
         ∧ (s.rx.read (s.rxlen.val - 1)).toNat ≠ byteSum s.rx s.rxlen.val)
    ∧ (let s := received [0x7E, 0x7E, 0x01, 0x01]
       HeaderOk s ∧ 4 ≤ s.rxlen.val ∧ s.rxlen.val = 3 + (s.rx.read 2).toNat
         ∧ (s.rx.read (s.rxlen.val - 1)).toNat = byteSum s.rx s.rxlen.val) := by
  unfold HeaderOk byteSum
  decide +kernel

theorem witness_WrapFramesTheStagedPayload : (58#8).toNat ≤ 58 ∧ 58 < (59#8).toNat := by decide

/-- Each of the four commands that produce a frame does so somewhere. -/
theorem witness_ProducedFramesValidateWhenPushedBack :
    (∀ i ∈ [Instr.wrap 0x01 58, .query, .encode 1, .encrt], ProducesFrame i ∧
      ∃ t, exec i ready = .next t ∧ t.err = .ok) := by
  intro i hi
  simp only [List.mem_cons, List.not_mem_nil, or_false] at hi
  rcases hi with rfl | rfl | rfl | rfl
  · refine ⟨.inl ⟨_, _, rfl⟩, ?_⟩
    simp only [exec, execWrap]
    rw [dif_pos (by decide)]
    exact ⟨_, rfl, rfl⟩
  · exact ⟨.inr (.inl rfl), _, rfl, rfl⟩
  · refine ⟨.inr (.inr (.inl ⟨_, rfl⟩)), ?_⟩
    simp only [exec, execEncode, emitFrame]
    rw [if_neg (by decide)]
    exact ⟨_, rfl, rfl⟩
  · refine ⟨.inr (.inr (.inr rfl)), ?_⟩
    simp only [exec, execEncrt, emitFrame]
    rw [if_neg (by decide)]
    exact ⟨_, rfl, rfl⟩

/-- A frame, a changed byte in each of the three regions of R161, and the buffer that holds the changed frame. -/
theorem witness_OneChangedByteFailsValidate :
    ∀ p ∈ [(0, 0x7F#8), (1, 0x00#8), (2, 0x3D#8), (2, 0x03#8), (3, 0x01#8), (4, 0x05#8)],
      let m := (received [0x7E, 0x7E, 0x02, 0x02, 0x04]).rx
      let s := { received [0x7E, 0x7E, 0x02, 0x02, 0x04] with rx := m.write p.1 p.2 }
      WellFramed m 5 ∧ p.1 < 5 ∧ p.2 ≠ m.read p.1 ∧ s.rxlen.val = 5
        ∧ ∀ a, a < 5 → s.rx.read a = if a = p.1 then p.2 else m.read a := by
  intro p hp
  refine ⟨shortFrames_wellFramed.2, ?_, ?_, rfl, fun a _ => Memory.read_write _ _ _ _⟩
  · revert p; decide
  · revert p; decide

/-! #### Field access -/

theorem witness_RdfReadsTheRegisterOfItsId :
    (0x37#8, 0) ∈ fieldTable DeviceState.reset ∧ (0x04#8, 8) ∈ fieldTable DeviceState.reset
    ∧ 0x38 ≤ (0x38#8).toNat ∧ 0x38 ≤ (0xFF#8).toNat := by decide

theorem witness_WrfWritesOnlyTheNamedRegister :
    (Field.mode ≠ .valid ∧ inDomain Config.machine .mode 7 = true)
    ∧ (∀ f : Field, f ≠ .valid → inDomain Config.machine f 0 = true)
    ∧ inDomain Config.machine .mode 8 = false ∧ inDomain Config.machine .regionalSwingPosition 257 = false
    ∧ 0x38 ≤ (0x38#8).toNat :=
  ⟨⟨by decide, rfl⟩, inDomain_zero _, rfl, rfl, by decide⟩

theorem witness_WrfAcceptsExactlyTheDomain :
    Field.temp ∉ [Field.valid, .mode, .tempUnits, .fanState, .sleepCurveType, .regionalSwingPosition,
      .pass27, .heatAssist, .remoteTempVal, .noiseControlHeating, .noiseControlCooling, .sleepCurveClock]
    ∧ Field.temp ∉ Field.customSleepCurves := by decide

/-! #### Decode -/

theorem witness_DecodeReportsTheFirstFailedPrecondition :
    (received [0x7E, 0x7E]).rxok = false
    ∧ (({ receivedLen 50 with rxok := true } : State).rxok = true
      ∧ ({ receivedLen 50 with rxok := true } : State).rxlen.val < 51)
    ∧ ((validated (frameE11.write 3 0x01)).rxok = true ∧ 51 ≤ (validated (frameE11.write 3 0x01)).rxlen.val
      ∧ (validated (frameE11.write 3 0x01)).rx.read 3 ≠ 0x31#8
      ∧ (validated (frameE11.write 3 0x01)).rx.read 3 ≠ 0x32#8) := by decide

/-- Both status types are decodable. -/
theorem frames_decodeReady : DecodeReady (validated frameE11) ∧ DecodeReady (validated frameE11b) :=
  ⟨⟨rfl, by decide, .inl rfl⟩, ⟨rfl, by decide, .inr rfl⟩⟩

/-- What DECODE leaves in the snapshot for a validated frame whose type byte is 0x31. -/
theorem decode_validated (m : Memory) (h : m.read 3 = 0x31#8) :
    DecodeReady (validated m) ∧ ∃ t, exec .decode (validated m) = .next t
      ∧ t.ds = decodeSnapshot Config.machine m DeviceState.reset ∧ t.err = .ok
      ∧ t.rx = m ∧ t.rxlen = 51 ∧ t.rxok = true := by
  have he : decodeError (validated m) = none := by
    have hb : ¬ (m.read 3 ≠ typeStatusA ∧ m.read 3 ≠ typeStatusB) := fun x => x.1 h
    simp only [decodeError, validated, Bool.not_true, Bool.false_eq_true, if_false, hb]
    rfl
  refine ⟨⟨rfl, Nat.le_refl 51, .inl h⟩, ?_⟩
  simp only [exec, execDecode, decodeFrame, he]
  exact ⟨_, rfl, rfl, rfl, rfl, rfl, rfl⟩

/-- Table 2.5: Celsius, Fahrenheit with u = 0, and Fahrenheit with u ≠ 0 are all decoded somewhere. -/
theorem witness_DecodeReadsPowerModeAndTemperature :
    (∃ t, exec .decode (validated frameE11) = .next t ∧ t.ds.tempUnits.toNat = 0)
    ∧ (∃ t, exec .decode (validated (frameE11.write 11 0x80)) = .next t ∧ t.ds.tempUnits.toNat = 1
      ∧ ((frameE11.write 11 0x80).read 9).toNat / 16 = 0)
    ∧ (∃ t, exec .decode (validated ((frameE11.write 9 0x60).write 11 0xC0)) = .next t ∧ t.ds.tempUnits.toNat = 1
      ∧ (((frameE11.write 9 0x60).write 11 0xC0).read 9).toNat / 16 ≠ 0) := by
  refine ⟨?_, ?_, ?_⟩
  · obtain ⟨_, t, h, hd, _⟩ := decode_validated frameE11 rfl
    exact ⟨t, h, by rw [hd, (decodeSnapshot_registers _ _ _).tempUnits]; decide⟩
  · obtain ⟨_, t, h, hd, _⟩ := decode_validated (frameE11.write 11 0x80) rfl
    exact ⟨t, h, by rw [hd, (decodeSnapshot_registers _ _ _).tempUnits]; decide, by decide⟩
  · obtain ⟨_, t, h, hd, _⟩ := decode_validated ((frameE11.write 9 0x60).write 11 0xC0) rfl
    exact ⟨t, h, by rw [hd, (decodeSnapshot_registers _ _ _).tempUnits]; decide, by decide⟩

/-- Table 2.5: every mode is decoded somewhere, so each clause about a mode has its case. -/
theorem witness_DecodeSelectsXFanByMode :
    ∀ k : Fin 8, ∃ t, exec .decode (validated (frameE11.write 8 (BitVec.ofNat 8 (16 * k.val)))) = .next t
      ∧ t.ds.mode.toNat = k.val := by
  intro k
  obtain ⟨_, t, h, hd, _⟩ := decode_validated (frameE11.write 8 (BitVec.ofNat 8 (16 * k.val)))
    (by rw [Memory.read_write_other _ _ _ (by decide)]; rfl)
  refine ⟨t, h, ?_⟩
  rw [hd, (decodeSnapshot_registers _ _ _).mode]
  have hm : ∀ j : Fin 8, (BitVec.ofNat 4 (extract (frameE11.write 8 (BitVec.ofNat 8 (16 * j.val))) Wire.mode)).toNat
      = j.val := by decide
  exact hm k

/-- Table 2.5: fan_speed 6 and 7 decode to fan_state UNKNOWN. -/
theorem witness_DecodeDerivesFanStateByPriority :
    ∃ t, exec .decode (validated (frameE11.write 22 0x06)) = .next t ∧ t.ds.fanState.toNat = 10 := by
  obtain ⟨_, t, h, hd, _⟩ := decode_validated (frameE11.write 22 0x06) rfl
  refine ⟨t, h, ?_⟩
  have r := decodeSnapshot_registers Config.machine (frameE11.write 22 0x06) DeviceState.reset
  rw [hd, r.fanState, r.turbo, r.quietType, r.fanSpeed]
  decide

/-- SIESTA set and clear, and a legal parameter set for each value of SLEEP_HI. -/
theorem witness_DecodeReadsTheSleepCurve :
    DecodeReady (validated (frameE11.write 20 0x80)) ∧ 128 ≤ ((validated (frameE11.write 20 0x80)).rx.read 20).toNat
    ∧ ((validated frameE11).rx.read 20).toNat < 128
    ∧ Params.sample.wf = true ∧ Params.sample.sleepHi = .byte8
    ∧ ({ Params.sample with sleepHi := .byte20 } : Params).wf = true :=
  ⟨(decode_validated _ rfl).1, by decide, by decide, Params.sample_legal, rfl, by decide +kernel⟩

/-- Under every parameter set, a frame of FF bytes has the spill bit set, and a frame of zero bytes has not. -/
theorem witness_DecodeReadsSplitSwingAndPassThrough :
    let p := Config.machine.params
    let full := stored 4 (List.replicate 46 0xFF) frameE11
    DecodeReady (validated full) ∧ (full.read p.swingSpillByte).getLsbD p.swingSpillBit = true
    ∧ DecodeReady (validated (frameE11.write 8 0))
    ∧ ((frameE11.write 8 0).read p.swingSpillByte).getLsbD p.swingSpillBit = false := by
  obtain ⟨_, ⟨h5, h38, h7⟩, _⟩ := Config.machine.swing
  have hall : ∀ a < 39, 5 ≤ a → ∀ k < 8,
      ((stored 4 (List.replicate 46 0xFF) frameE11).read a).getLsbD k = true
      ∧ ((frameE11.write 8 0).read a).getLsbD k = false := by decide +kernel
  have h := hall _ (by omega) h5 _ (by omega : Config.machine.params.swingSpillBit < 8)
  exact ⟨(decode_validated _ (by decide +kernel)).1, h.1, (decode_validated _ rfl).1, h.2⟩

theorem witness_SecondDecodeOfTheFrameChangesNothing :
    ∃ t r : State, exec .decode (validated frameE11) = .next t ∧ DecodeReady (validated frameE11)
      ∧ r.rx = (validated frameE11).rx ∧ r.rxlen = (validated frameE11).rxlen ∧ r.rxok = (validated frameE11).rxok
      ∧ r.ds = t.ds := by
  obtain ⟨hr, t, h, _, _, h1, h2, h3⟩ := decode_validated frameE11 rfl
  exact ⟨t, t, h, hr, h1, h2, h3, rfl⟩

/-- Two frames that differ in the type byte agree on every covered bit. -/
theorem witness_DecodeDependsOnlyOnCoveredBits :
    let r := validated frameE11
    let s := validated (frameE11.write 3 0x32)
    DecodeReady r ∧ DecodeReady s ∧ r.ds = s.ds ∧ r.rx ≠ s.rx
    ∧ (∀ cell ∈ Config.machine.params.coveredCells, 40 ≤ cell → frameBit r.rx cell = frameBit s.rx cell)
    ∧ r.rx.read 41 = s.rx.read 41 := by
  refine ⟨frames_decodeReady.1, ⟨rfl, by decide, .inr rfl⟩, rfl, by decide, fun cell _ h => ?_, rfl⟩
  have hb : cell / 8 ≠ 3 := by omega
  simp only [frameBit, validated, Memory.read_write_other _ _ _ hb]

theorem witness_DecodeCommitsSnapshotAndWarnings : DecodeReady (validated frameE11) := frames_decodeReady.1

theorem witness_DecodeExtractsEveryMappedField :
    DecodeReady (validated frameE11b) ∧ Field.light ∈ Field.mapped ∧ Field.mapped.length = 40 :=
  ⟨frames_decodeReady.2, by decide, by decide⟩

/-! #### Encode -/

theorem witness_EncodeRefusesAnInvalidSnapshot : State.reset.ds.valid = 0 := rfl

/-- The state every statement about a successful ENCODE or ENCRT can start from. -/
theorem witness_EncodeEmitsAWellFormedCommandFrame : ready.ds.valid = 1 := rfl

theorem witness_EncodeWritesPowerModeAndTemperature :
    (ready.ds.valid = 1 ∧ ready.ds.tempUnits.toNat = 0)
    ∧ (({ ready with ds := { snapshotOk with tempUnits := 1 } } : State).ds.valid = 1
      ∧ ({ ready with ds := { snapshotOk with tempUnits := 1 } } : State).ds.tempUnits.toNat = 1) := by decide

theorem witness_EncodeGatesXFanAndHeatAssistByMode :
    ∀ m : BitVec 4, ∃ s : State, s.ds.valid = 1 ∧ s.ds.mode = m :=
  fun m => ⟨{ ready with ds := { snapshotOk with mode := m } }, rfl, rfl⟩

theorem witness_EncodeNormalisesTheFanInOrder : ready.ds.valid = 1 := rfl

/-- SIESTA and not SIESTA, on and off; the two values of SLEEP_HI are in `witness_DecodeReadsTheSleepCurve`. -/
theorem witness_EncodeWritesSleepAndSplitField :
    clearedIfOff { snapshotOk with isOn := 1, sleepCurveType := 128 } .sleepCurveType = 128
    ∧ clearedIfOff { snapshotOk with isOn := 1, sleepCurveType := 3 } .sleepCurveType = 3
    ∧ clearedIfOff { snapshotOk with isOn := 0, sleepCurveType := 128 } .sleepCurveType = 0 := by decide

theorem witness_EncodeSpillsSwingPosition256 :
    ({ snapshotOk with regionalSwingPosition := 256 } : DeviceState).regionalSwingPosition.toNat = 256
    ∧ ({ snapshotOk with regionalSwingPosition := 255 } : DeviceState).regionalSwingPosition.toNat ≠ 256 := by decide

theorem witness_EncodePacksEveryMappedField :
    ready.ds.valid = 1 ∧ Field.purify ∈ Field.mapped ∧ Field.purify ≠ .heatAssist := by decide

/-- The number of bits a segment list covers is its width. -/
theorem segsCells_length (segs : List Seg) : (segsCells segs).length = segsWidth segs := by
  induction segs with
  | nil => rfl
  | cons s rest ih => simp [segsCells, segsWidth, Seg.cells] at ih ⊢; omega

/-- Under every parameter set, some bit of bytes 5..38 is covered by no position: there are 272 such bits, and at most 266
are covered. -/
theorem uncovered_bit (c : Config) : ∃ cell, 5 ≤ cell / 8 ∧ cell / 8 ≤ 38 ∧ cell ∉ c.params.coveredCells := by
  by_contra hno
  have hsub : List.range' 40 272 ⊆ c.params.coveredCells := by
    intro cell hc
    rw [List.mem_range'_1] at hc
    by_contra hcov
    exact hno ⟨cell, by omega, by omega, hcov⟩
  have hlen : 272 ≤ c.params.coveredCells.length := by
    have := (List.nodup_range' (s := 40) (n := 272)).subperm hsub |>.length_le
    simpa using this
  have hmapped : ∀ l : List Field, (∀ g ∈ l, g ∈ Field.mapped) →
      (l.flatMap fun g => segsCells (c.params.fieldMap g)).length ≤ (l.map Field.width).sum := by
    intro l hl
    induction l with
    | nil => exact Nat.le_refl _
    | cons g rest ih =>
      have h1 := c.mapped_width (hl g (by simp))
      have h2 := c.wireWidth_le g
      have h3 := ih fun x hx => hl x (by simp [hx])
      simp only [List.flatMap_cons, List.length_append, List.map_cons, List.sum_cons, segsCells_length] at h3 ⊢
      unfold Config.fieldMap at h1
      omega
  have h1 := hmapped Field.mapped fun _ h => h
  have h2 : (Field.mapped.map Field.width).sum = 209 := by decide
  have h3 : (segsCells Wire.stated).length = 38 := by decide
  have h4 : c.params.pass27Cells.length ≤ 8 := by
    simp only [Params.pass27Cells, List.length_map]
    exact Nat.le_trans (List.length_filter_le _ _) (by simp)
  have h5 := c.sleep_width
  have h6 : segsWidth c.params.swingPosition = 8 := rfl
  have h7 : segsWidth c.params.swingSpill = 1 := by simp [Params.swingSpill, segsWidth, Seg.width]
  simp only [Params.coveredCells, List.length_append, segsCells_length] at hlen h3
  omega

theorem witness_EncodeLeavesUncoveredBitsZero :
    ready.ds.valid = 1
    ∧ ∃ cell, 5 ≤ cell / 8 ∧ cell / 8 ≤ 38 ∧ cell ∉ Config.machine.params.coveredCells :=
  ⟨rfl, uncovered_bit _⟩

/-- A bit of byte 40, beyond the frame. -/
theorem witness_EncrtEmitsTheMinimalFrame :
    ready.ds.valid = 1
    ∧ (5 ≤ 320 / 8 ∧ 320 / 8 ≠ 39 ∧ 320 ∉ segsCells (Config.machine.params.fieldMap .remoteTempVal)) := by
  refine ⟨rfl, by decide, by decide, fun h => ?_⟩
  rw [mem_segsCells] at h
  obtain ⟨s, hs, hc⟩ := h
  rw [Seg.mem_cells] at hc
  obtain ⟨k, h1, h2, he⟩ := hc
  have := Config.machine.mapped_seg (g := .remoteTempVal) (by decide) hs
  unfold cellOf at he
  omega

/-- A legal snapshot, the frame ENCODE makes of it, and a status frame that carries its bytes 4..38. -/
theorem witness_DecodeOfEncodeRestoresTheSnapshot :
    ∃ t r : State, SnapshotLegal Config.machine ready.ds ∧ ready.ds.valid = 1 ∧ exec (.encode 1) ready = .next t
      ∧ DecodeReady r ∧ (∀ a, 4 ≤ a → a ≤ 38 → r.rx.read a = t.tx.read a)
      ∧ (∀ a, 39 ≤ a → a ≤ 49 → r.rx.read a = 0#8)
      ∧ DecodableTemp ready.ds.tempUnits.toNat ready.ds.temp.toNat := by
  obtain ⟨t, ht, hz⟩ : ∃ t, exec (.encode 1) ready = .next t ∧ ∀ a, 40 ≤ a → t.tx.read a = 0#8 := by
    simp only [exec, execEncode, emitFrame]
    rw [if_neg (by decide)]
    refine ⟨_, rfl, fun a ha => ?_⟩
    simp only [State.finish_tx, State.withTx_tx]
    rw [commandFrame, read_sealFrame, if_neg (by unfold cmdFrameLen; omega), read_pack_outside _ _ _ (by omega),
      Memory.read_write_other _ _ _ (by unfold Wire.intentByte; omega), read_packInit]
    simp only [show a ≠ 0 by omega, show a ≠ 1 by omega, show a ≠ 2 by omega, show a ≠ 3 by omega,
      if_false, or_self]
  refine ⟨t, validated ((t.tx.write 3 0x31).write 39 0), snapshotOk_legal _, rfl, ht, ?_, ?_, ?_, ?_⟩
  · refine ⟨rfl, Nat.le_refl 51, .inl ?_⟩
    simp only [validated]
    rw [Memory.read_write_other _ _ _ (by decide), Memory.read_write_same]
    rfl
  · intro a h4 h38
    simp only [validated]
    rw [Memory.read_write_other _ _ _ (by omega), Memory.read_write_other _ _ _ (by omega)]
  · intro a h39 _
    simp only [validated]
    rw [Memory.read_write]
    split
    · rfl
    · rw [Memory.read_write_other _ _ _ (by omega)]
      exact hz a (by omega)
  · exact .inl (by decide)

/-! #### Temperature -/

theorem witness_TdecEvaluatesDecodeTemp :
    (0#1 = 0 ∧ 1#1 = 1) ∧ (0#4 = 0 ∧ 1#4 ≠ 0 ∧ 15#4 ≠ 0) := by decide

theorem witness_TencEvaluatesEncodeTemp : 0#1 = 0 ∧ 1#1 = 1 := by decide

/-- The ends of both ranges of R288. -/
theorem witness_TdecOfTencRestoresTheTemperature :
    DecodableTemp (0#1).toNat (32#8).toNat ∧ DecodableTemp (0#1).toNat (61#8).toNat
    ∧ DecodableTemp (1#1).toNat (122#8).toNat ∧ DecodableTemp (1#1).toNat (172#8).toNat
    ∧ ¬ DecodableTemp (0#1).toNat (62#8).toNat ∧ ¬ DecodableTemp (1#1).toNat (123#8).toNat := by
  unfold DecodableTemp
  decide

/-! #### Whole-machine rules -/

/-- An error of a plain command, of VALIDATE and of ENCODE. -/
theorem witness_ErrorsChangeOnlyTheirListedEffects :
    (∃ t, exec .cksum State.reset = .next t ∧ t.err ≠ .ok)
    ∧ (∃ t, exec .validate State.reset = .next t ∧ t.err ≠ .ok)
    ∧ (∃ t, exec (.encode 1) State.reset = .next t ∧ t.err ≠ .ok) := by
  refine ⟨⟨_, rfl, by decide⟩, ⟨_, rfl, by decide⟩, ?_⟩
  simp only [exec, execEncode, emitFrame]
  rw [if_pos (by decide)]
  exact ⟨_, rfl, by decide⟩

/-- A command that is neither, a DECODE that fails its preconditions, and SRST. -/
theorem witness_WarnBitsComeFromTheLastDecode :
    (∃ t, exec .nop State.reset = .next t)
    ∧ ((∃ t, exec .decode State.reset = .next t) ∧ ¬ DecodeReady State.reset)
    ∧ (∃ t, exec .srst State.reset = .next t) :=
  ⟨⟨_, rfl⟩, ⟨⟨_, rfl⟩, fun h => by cases h.validated⟩, ⟨_, rfl⟩⟩

theorem witness_ValidIsSetByDecodeAndClearedByReset :
    (∃ t, exec .decode (validated frameE11) = .next t ∧ (validated frameE11).ds.valid = 0 ∧ t.ds.valid = 1)
    ∧ (∃ t, exec .srst ready = .next t ∧ ready.ds.valid = 1 ∧ t.ds.valid = 0) := by
  obtain ⟨_, t, h, hd, _⟩ := decode_validated frameE11 rfl
  exact ⟨⟨t, h, rfl, by rw [hd, (decodeSnapshot_registers _ _ _).valid]⟩, ⟨_, rfl, rfl, rfl⟩⟩

/-- RXOK set by VALIDATE, and cleared by each of its four writers. -/
theorem witness_RxokIsSetOnlyByPassingValidate :
    (∃ t, exec .validate { validated frameE11 with rxok := false } = .next t ∧ t.rxok = true)
    ∧ (∃ t, exec .validate { validated (frameE11.write 8 0) with rxok := true } = .next t ∧ t.rxok = false
        ∧ t.err ≠ .ok)
    ∧ (∃ t, exec .rxclr (validated frameE11) = .next t ∧ t.rxok = false)
    ∧ (∃ t, exec (.rxpush 0) (validated frameE11) = .next t ∧ t.rxok = false ∧ t.err = .ok)
    ∧ (∃ t, exec .srst (validated frameE11) = .next t ∧ t.rxok = false) := by
  refine ⟨?_, ?_, ⟨_, rfl, rfl⟩, ⟨_, rfl, rfl, rfl⟩, ⟨_, rfl, rfl⟩⟩
  · have h : validateError ({ validated frameE11 with rxok := false } : State).rx 51 = none := by decide +kernel
    exact ⟨_, by simp only [exec, execValidate]; rw [show (State.rxlen _).val = 51 from rfl, h]; rfl, rfl⟩
  · have h : validateError ({ validated (frameE11.write 8 0) with rxok := true } : State).rx 51
        = some .checksumMismatch := by decide +kernel
    exact ⟨_, by simp only [exec, execValidate]; rw [show (State.rxlen _).val = 51 from rfl, h]; rfl, rfl, by decide⟩

/-- WRF and DECODE change the snapshot. -/
theorem witness_EachRegisterFileHasOnlyItsWriters :
    (∃ t, exec (.wrf 0x04 7) ready = .next t ∧ t.ds ≠ ready.ds)
    ∧ (∃ t, exec .decode (validated frameE11) = .next t ∧ t.ds ≠ (validated frameE11).ds) := by
  constructor
  · exact ⟨{ ready with ds := { snapshotOk with mode := 7 } }, rfl, by decide⟩
  · obtain ⟨_, t, h, hd, _⟩ := decode_validated frameE11 rfl
    refine ⟨t, h, fun he => ?_⟩
    have hv := (decodeSnapshot_registers Config.machine frameE11 DeviceState.reset).valid
    rw [← hd, he] at hv
    revert hv
    decide

theorem witness_ReceiveFlowMakesTheSnapshotValid :
    (WellFramed frameE11 51 ∧ 51 ≤ 51 ∧ frameE11.read 3 = 0x31#8)
    ∧ (WellFramed frameE11b 51 ∧ 51 ≤ 51 ∧ frameE11b.read 3 = 0x32#8) :=
  ⟨⟨frameE11_wellFramed, Nat.le_refl _, rfl⟩, ⟨frameE11b_wellFramed, Nat.le_refl _, rfl⟩⟩

theorem witness_SendFlowOffersThePayloadFramed :
    ([0xAA#8] ≠ [] ∧ [0xAA#8].length ≤ 58)
    ∧ (List.replicate 58 0xFF#8 ≠ [] ∧ (List.replicate 58 0xFF#8).length ≤ 58) := by decide

end Sys2Proof.Tests
end

/-! ### Steps and what a command can do -/

namespace Sys2Proof.Machine

/-! #### Taking the next word -/

/-- With no word presented a step is idle (log entry 1). -/
theorem step_of_no_word {s : State} (h : s.pending = []) : step s = .next s := by
  simp [step, fetch, h, idle]

/-- A presented word that is a command runs with the word taken and the index advanced (R21). -/
theorem step_of_command {s : State} {w : Word} {rest : List Word} {i : Instr} (hp : s.pending = w :: rest)
    (hd : decode w = .ok i) : step s = exec i { s with pending := rest, index := s.index + 1 } := by
  simp [step, fetch, hp, hd]

/-- A presented word that is no command is taken and raises IllegalCommand (R103). -/
theorem step_of_illegal {s : State} {w : Word} {rest : List Word} {x : DecodeReject} (hp : s.pending = w :: rest)
    (hd : decode w = .error x) :
    step s = raise { s with pending := rest, index := s.index + 1 } .illegalCommand := by
  simp [step, fetch, hp, hd, execIllegal]

/-! #### What a command can do -/

/-- The commands that write no register but STATUS.ERR and RESULT, whatever they end in. -/
def ReadsOnly : Instr → Prop
  | .nop | .rxrd _ | .txrd _ | .cksum | .hdrchk | .rdf _ | .tdec _ _ _ _ | .tenc _ _ => True
  | _ => False

/-- `Effect i s u e`: command `i` at state `s` ends in error code `e`, after the register updates that lead from `s`
to `u`; one constructor per way a command can end, with its guard. -/
inductive Effect : Instr → State → State → ErrCode → Prop
  | read {i : Instr} {s : State} (h : ReadsOnly i) : Effect i s s .ok
  | fail {i : Instr} {s : State} {e : ErrCode} (hv : i ≠ .validate) (hl : ∀ latch, i ≠ .encode latch)
      (hr : i ≠ .encrt) (he : e ≠ .ok) : Effect i s s e
  | rxclr {s : State} : Effect .rxclr s (s.withRx Memory.zero 0) .ok
  | rxpush {s : State} (byte : Byte) (h : s.rxlen.val < bufferCap) :
      Effect (.rxpush byte) s
        (s.withRx (s.rx.write s.rxlen.val byte) ⟨s.rxlen.val + 1, Nat.succ_lt_succ h⟩) .ok
  | txclr {s : State} : Effect .txclr s (s.withTx Memory.zero 0) .ok
  | txput {s : State} (index byte : Byte) (h : index.toNat < bufferCap) :
      Effect (.txput index byte) s (s.withTx (s.tx.write index.toNat byte) 0) .ok
  | validates {s : State} (h : validateError s.rx s.rxlen.val = none) :
      Effect .validate s (s.withRxok true) .ok
  | rejects {s : State} {e : ErrCode} (h : validateError s.rx s.rxlen.val = some e) :
      Effect .validate s (s.withRxok false) e
  | wrap {s : State} (type len : Byte) (n : Fin 65) (h : len.toNat ≤ maxPayload) (hn : n.val = len.toNat + 5) :
      Effect (.wrap type len) s (s.withTx (sealFrame (writeHeader s.tx (len + 2) type) n.val) n) .ok
  | query {s : State} : Effect .query s (s.withTx ((writeHeader s.tx 0x02#8 typeQuery).write 4 0x04#8) 5) .ok
  | decode {s : State} (unrec quiet3 : Bool) (h : decodeError s = none) :
      Effect .decode s ((s.withDs (decodeSnapshot Config.machine s.rx s.ds)).withWarnings unrec quiet3) .ok
  | encode {s : State} (latch : BitVec 1) (h : s.ds.valid ≠ 0) :
      Effect (.encode latch) s (s.withTx (commandFrame Config.machine s.ds latch) 40) .ok
  | encrt {s : State} (h : s.ds.valid ≠ 0) :
      Effect .encrt s (s.withTx (remoteTempFrame Config.machine s.ds) 40) .ok
  | refusesEncode {s : State} (latch : BitVec 1) (h : s.ds.valid = 0) :
      Effect (.encode latch) s (s.withTxlen 0) .invalidStateForEncode
  | refusesEncrt {s : State} (h : s.ds.valid = 0) : Effect .encrt s (s.withTxlen 0) .invalidStateForEncode
  | wrf {s : State} (field : Byte) (value : Half) {f : Field} (hf : fieldOfId? field = some f)
      (hd : inDomain Config.machine f value = true) :
      Effect (.wrf field value) s (s.withDs (s.ds.set f value)) .ok
  | srst {s : State} : Effect .srst s s.softReset .ok

/-- The answer `r` of command `i` at state `s` is a next state that one of the effects of `i` leads to, with RESULT 0
after an error (R302). -/
def EndsInEffect (i : Instr) (s : State) (r : StepResult) : Prop :=
  ∃ u e v, r = .next (u.finish e v) ∧ (e ≠ .ok → v = 0) ∧ Effect i s u e

theorem Effect.succeed {i : Instr} {s u : State} {v : Half} (h : Effect i s u .ok) :
    EndsInEffect i s (succeed u v) := ⟨u, .ok, v, rfl, fun he => absurd rfl he, h⟩

theorem Effect.raise {i : Instr} {s u : State} {e : ErrCode} (h : Effect i s u e) :
    EndsInEffect i s (raise u e) := ⟨u, e, 0, rfl, fun _ => rfl, h⟩

theorem execRxpush_effect (byte : Byte) (s : State) : EndsInEffect (.rxpush byte) s (execRxpush byte s) := by
  unfold execRxpush
  split
  next h => exact (Effect.rxpush byte h).succeed
  next => exact Effect.raise (.fail nofun nofun nofun nofun)

theorem execRxrd_effect (index : Byte) (s : State) : EndsInEffect (.rxrd index) s (execRxrd index s) := by
  unfold execRxrd
  split
  · exact Effect.raise (.fail nofun nofun nofun nofun)
  · exact Effect.succeed (.read trivial)

theorem execTxput_effect (index byte : Byte) (s : State) :
    EndsInEffect (.txput index byte) s (execTxput index byte s) := by
  unfold execTxput
  split
  next => exact Effect.raise (.fail nofun nofun nofun nofun)
  next h => exact (Effect.txput index byte (not_le.1 h)).succeed

theorem execTxrd_effect (index : Byte) (s : State) : EndsInEffect (.txrd index) s (execTxrd index s) := by
  unfold execTxrd
  split
  · exact Effect.raise (.fail nofun nofun nofun nofun)
  · exact Effect.succeed (.read trivial)

theorem execCksum_effect (s : State) : EndsInEffect .cksum s (execCksum s) := by
  unfold execCksum
  split
  · exact Effect.raise (.fail nofun nofun nofun nofun)
  · exact Effect.succeed (.read trivial)

theorem execHdrchk_effect (s : State) : EndsInEffect .hdrchk s (execHdrchk s) := by
  unfold execHdrchk
  split_ifs
  · exact Effect.raise (.fail nofun nofun nofun nofun)
  · exact Effect.raise (.fail nofun nofun nofun nofun)
  · exact Effect.succeed (.read trivial)

theorem execValidate_effect (s : State) : EndsInEffect .validate s (execValidate s) := by
  unfold execValidate
  split
  next e h => exact (Effect.rejects h).raise
  next h => exact (Effect.validates h).succeed

theorem execWrap_effect (type len : Byte) (s : State) :
    EndsInEffect (.wrap type len) s (execWrap type len s) := by
  unfold execWrap
  split
  next h =>
    have hlen : len.toNat + 5 < 65 := Nat.lt_of_le_of_lt (Nat.add_le_add_right h 5) (by decide)
    exact Effect.succeed (.wrap type len ⟨len.toNat + 5, hlen⟩ h rfl)
  next => exact Effect.raise (.fail nofun nofun nofun nofun)

/-- The code of a failed precondition of DECODE is an error. -/
theorem decodeError_ne_ok {s : State} {e : ErrCode} (h : decodeError s = some e) : e ≠ .ok := by
  unfold decodeError at h
  split_ifs at h <;> exact Option.some.inj h ▸ nofun

theorem execDecode_effect (s : State) : EndsInEffect .decode s (execDecode s) := by
  unfold execDecode
  obtain ⟨e, he, h⟩ | ⟨hn, h⟩ := decodeFrame_cases Config.machine s
  · rw [h]
    exact Effect.raise (.fail nofun nofun nofun (decodeError_ne_ok he))
  · rw [h]
    exact (Effect.decode _ _ hn).succeed

theorem execEncode_effect (latch : BitVec 1) (s : State) :
    EndsInEffect (.encode latch) s (execEncode latch s) := by
  unfold execEncode
  obtain ⟨hv, h⟩ | ⟨hv, h⟩ := emitFrame_cases s (commandFrame Config.machine s.ds latch)
  · rw [h]
    exact (Effect.refusesEncode latch hv).raise
  · rw [h]
    exact (Effect.encode latch hv).succeed

theorem execEncrt_effect (s : State) : EndsInEffect .encrt s (execEncrt s) := by
  unfold execEncrt
  obtain ⟨hv, h⟩ | ⟨hv, h⟩ := emitFrame_cases s (remoteTempFrame Config.machine s.ds)
  · rw [h]
    exact (Effect.refusesEncrt hv).raise
  · rw [h]
    exact (Effect.encrt hv).succeed

theorem execRdf_effect (field : Byte) (s : State) : EndsInEffect (.rdf field) s (execRdf field s) := by
  unfold execRdf
  split
  · exact Effect.raise (.fail nofun nofun nofun nofun)
  · exact Effect.succeed (.read trivial)

theorem execWrf_effect (field : Byte) (value : Half) (s : State) :
    EndsInEffect (.wrf field value) s (execWrf field value s) := by
  unfold execWrf
  obtain h | ⟨f, hf, hd, h⟩ := writeField_cases Config.machine field value s
  · rw [h]
    exact Effect.raise (.fail nofun nofun nofun nofun)
  · rw [h]
    exact (Effect.wrf field value hf hd).succeed

/-- What a command can do, said once: every command at every state answers a next state, by one of its effects. -/
theorem exec_effect (i : Instr) (s : State) : EndsInEffect i s (exec i s) := by
  cases i with
  | nop => exact Effect.succeed (.read trivial)
  | rxclr => exact Effect.rxclr.succeed
  | rxpush byte => exact execRxpush_effect byte s
  | rxrd index => exact execRxrd_effect index s
  | txclr => exact Effect.txclr.succeed
  | txput index byte => exact execTxput_effect index byte s
  | txrd index => exact execTxrd_effect index s
  | cksum => exact execCksum_effect s
  | hdrchk => exact execHdrchk_effect s
  | validate => exact execValidate_effect s
  | wrap type len => exact execWrap_effect type len s
  | query => exact Effect.query.succeed
  | decode => exact execDecode_effect s
  | encode latch => exact execEncode_effect latch s
  | encrt => exact execEncrt_effect s
  | rdf field => exact execRdf_effect field s
  | wrf field value => exact execWrf_effect field value s
  | tdec units upper lo h => exact Effect.succeed (.read trivial)
  | tenc units t2 => exact Effect.succeed (.read trivial)
  | srst => exact Effect.srst.succeed

/-- The inversion lemma of `exec`: a next state is the end of one of the command's effects. -/
theorem exec_cases {i : Instr} {s t : State} (h : exec i s = .next t) :
    ∃ u e v, t = u.finish e v ∧ (e ≠ .ok → v = 0) ∧ Effect i s u e := by
  obtain ⟨u, e, v, hr, hv, he⟩ := exec_effect i s
  rw [hr] at h
  exact ⟨u, e, v, (Host.Outcome.next.inj h).symm, hv, he⟩

/-- No command touches the words still to come or the index of the current one. -/
theorem Effect.stream {i : Instr} {s u : State} {e : ErrCode} (h : Effect i s u e) :
    u.pending = s.pending ∧ u.index = s.index := by
  cases h <;> simp

/-- The inversion lemma of `step`: idle, one command's effect, or an illegal word. -/
theorem step_cases {s t : State} (h : step s = .next t) :
    (s.pending = [] ∧ t = s) ∨
      ∃ w rest, s.pending = w :: rest ∧
        ((∃ i, decode w = .ok i ∧ exec i { s with pending := rest, index := s.index + 1 } = .next t) ∨
          t = State.finish { s with pending := rest, index := s.index + 1 } .illegalCommand 0) := by
  cases hp : s.pending with
  | nil =>
    rw [step_of_no_word hp] at h
    exact .inl ⟨rfl, (Host.Outcome.next.inj h).symm⟩
  | cons w rest =>
    refine .inr ⟨w, rest, rfl, ?_⟩
    cases hd : decode w with
    | ok i => exact .inl ⟨i, rfl, step_of_command hp hd ▸ h⟩
    | error x => exact .inr (raise_next.1 (step_of_illegal hp hd ▸ h))

/-- A step on a presented word answers, takes the word and advances the index by one. -/
theorem step_takes_word {s : State} {w : Word} {rest : List Word} (hp : s.pending = w :: rest) :
    ∃ t, step s = .next t ∧ t.pending = rest ∧ t.index = s.index + 1 := by
  cases hd : decode w with
  | ok i =>
    obtain ⟨u, e, v, hr, -, he⟩ := exec_effect i { s with pending := rest, index := s.index + 1 }
    exact ⟨u.finish e v, (step_of_command hp hd).trans hr, he.stream.1, he.stream.2⟩
  | error x => exact ⟨_, step_of_illegal hp hd, rfl, rfl⟩

/-- Settles O1: fetching takes the word, and the decoded command runs. -/
theorem stepRunsTheDecodedCommand : Obligations.StepRunsTheDecodedCommand := fun _ _ _ _ hp hd =>
  step_of_command hp hd

/-- Settles O6: every command ends in one of its effects, none of which touches the words still to come. -/
theorem everyCommandAndStepCompletes : Obligations.EveryCommandAndStepCompletes := by
  refine ⟨fun i s => ?_, fun s => ?_, fun s w rest hp => step_takes_word hp⟩
  · obtain ⟨u, e, v, hr, -, -⟩ := exec_effect i s
    exact ⟨_, hr⟩
  · cases hp : s.pending with
    | nil => exact ⟨s, step_of_no_word hp⟩
    | cons w rest =>
      obtain ⟨t, ht, -, -⟩ := step_takes_word hp
      exact ⟨t, ht⟩

end Sys2Proof.Machine

/-! ### Field domains and legal snapshots -/

namespace Sys2Proof.Machine

/-! #### The values of a field's domain -/

/-- The fields whose domain R183 names value by value; every other one takes all values of a width. -/
def codedFields : List Field :=
  [.valid, .mode, .tempUnits, .fanState, .sleepCurveType, .regionalSwingPosition, .pass27]

theorem inDomain_of_not_coded (c : Config) {f : Field} (hf : f ∉ codedFields) (v : Half) :
    inDomain c f v = true ↔ v.toNat < 2 ^ c.params.wireWidth f := by
  unfold inDomain
  split
  case h_8 => exact decide_eq_true_iff
  all_goals exact absurd (by decide) hf

theorem inDomain_valid (c : Config) (v : Half) : inDomain c .valid v = false := rfl

theorem inDomain_mode (c : Config) (v : Half) : inDomain c .mode v = true ↔ v.toNat ≤ 7 := decide_eq_true_iff

theorem inDomain_tempUnits (c : Config) (v : Half) : inDomain c .tempUnits v = true ↔ v.toNat ≤ 1 :=
  decide_eq_true_iff

theorem inDomain_fanState (c : Config) (v : Half) :
    inDomain c .fanState v = true ↔ v.toNat ≤ 10 ∨ v.toNat = 15 := by
  simp [inDomain]

theorem inDomain_sleepCurveType (c : Config) (v : Half) :
    inDomain c .sleepCurveType v = true ↔ v.toNat ≤ 3 ∨ v.toNat = 128 := by
  simp [inDomain]

theorem inDomain_regionalSwingPosition (c : Config) (v : Half) :
    inDomain c .regionalSwingPosition v = true ↔ v.toNat ≤ 256 := decide_eq_true_iff

/-- pass27 takes the values all of whose bits are bits of PASS27_MASK (R76). -/
theorem inDomain_pass27 (c : Config) (v : Half) :
    inDomain c .pass27 v = true ↔ ∀ k, v.getLsbD k = true → c.params.pass27Mask.getLsbD k = true := by
  have hk : inDomain c .pass27 v = true ↔
      ∀ k, (v &&& ~~~(c.params.pass27Mask.setWidth 16)).getLsbD k = (0 : Half).getLsbD k := by
    rw [inDomain, beq_iff_eq]
    exact ⟨fun h k => by rw [h], fun h => BitVec.eq_of_getLsbD_eq fun k _ => h k⟩
  rw [hk]
  refine forall_congr' fun k => ?_
  by_cases hlt : k < 16
  · simp [hlt]
  · simp [BitVec.getLsbD_of_ge v k (by omega)]

/-- The fields whose wire width is an OPEN parameter (R72(c)). -/
def openWidthFields : List Field :=
  [.heatAssist, .remoteTempVal, .noiseControlHeating, .noiseControlCooling, .sleepCurveClock]
    ++ Field.customSleepCurves

theorem wireWidth_of_not_open (p : Params) {f : Field} (hf : f ∉ openWidthFields) : p.wireWidth f = f.width := by
  cases f with
  | customSleepCurve k => exact absurd (by revert k; decide) hf
  | heatAssist | remoteTempVal | noiseControlHeating | noiseControlCooling | sleepCurveClock =>
    exact absurd (by decide) hf
  | _ => rfl

/-- The values of a domain fit the register, so a write loses no bit of them. -/
theorem lt_of_inDomain {c : Config} {f : Field} {v : Half} (h : inDomain c f v = true) : v.toNat < 2 ^ f.width := by
  by_cases hf : f ∈ codedFields
  · simp only [codedFields, List.mem_cons, List.not_mem_nil, or_false] at hf
    obtain rfl | rfl | rfl | rfl | rfl | rfl | rfl := hf
    · exact absurd h (by simp [inDomain_valid])
    · exact lt_of_le_of_lt ((inDomain_mode c v).1 h) (by decide)
    · exact lt_of_le_of_lt ((inDomain_tempUnits c v).1 h) (by decide)
    · have := (inDomain_fanState c v).1 h
      simp only [Field.width]
      omega
    · have := (inDomain_sleepCurveType c v).1 h
      simp only [Field.width]
      omega
    · exact lt_of_le_of_lt ((inDomain_regionalSwingPosition c v).1 h) (by decide)
    · refine Nat.lt_pow_two_of_testBit _ fun k (hk : 8 ≤ k) => ?_
      by_contra hv
      have hmask := (inDomain_pass27 c v).1 h k (by simpa [BitVec.getLsbD] using hv)
      rw [BitVec.getLsbD_of_ge _ k hk] at hmask
      exact absurd hmask (by decide)
  · exact lt_of_lt_of_le ((inDomain_of_not_coded c hf v).1 h)
      (Nat.pow_le_pow_right (by decide) (c.wireWidth_le f))

/-- A register holds an accepted value just as it was written, and every other register stays. -/
theorem get_set_of_inDomain {c : Config} {f : Field} {v : Half} (h : inDomain c f v = true) (d : DeviceState)
    (g : Field) : (d.set f v).get g = if g = f then v else d.get g := by
  split_ifs with hg
  · subst hg
    exact BitVec.eq_of_toNat_eq (by rw [DeviceState.get_set_same, Nat.mod_eq_of_lt (lt_of_inDomain h)])
  · exact DeviceState.get_set_other d v hg

/-! #### Legal snapshots -/

/-- A snapshot's legality, in the values its registers read as. -/
theorem snapshotLegal_iff (c : Config) (d : DeviceState) :
    SnapshotLegal c d ↔
      ((d.get .mode).toNat ≤ 8 ∧ (d.get .tempUnits).toNat ≤ 2)
      ∧ ((d.get .valid).toNat = 1 → (d.get .mode).toNat ≤ 7 ∧ (d.get .tempUnits).toNat ≤ 1)
      ∧ ∀ f : Field, f ≠ .valid → f ≠ .mode → f ≠ .tempUnits → inDomain c f (d.get f) = true := by
  have hm : (d.get .mode).toNat = d.mode.toNat := toNat_setWidth_of_le (by decide) _
  have hu : (d.get .tempUnits).toNat = d.tempUnits.toNat := toNat_setWidth_of_le (by decide) _
  have hv : (d.get .valid).toNat = 1 ↔ d.valid = 1 := by
    rw [show (d.get .valid).toNat = d.valid.toNat from toNat_setWidth_of_le (by decide) _]
    exact BitVec.toNat_inj (y := 1#1)
  rw [hm, hu, hv]
  exact ⟨fun ⟨h1, h2, h3, h4⟩ => ⟨⟨h1, h2⟩, h3, h4⟩, fun ⟨⟨h1, h2⟩, h3, h4⟩ => ⟨h1, h2, h3, h4⟩⟩

/-- Writing an accepted value to a register keeps a snapshot legal. -/
theorem SnapshotLegal.set {c : Config} {d : DeviceState} (h : SnapshotLegal c d) {f : Field} {v : Half}
    (hv : inDomain c f v = true) : SnapshotLegal c (d.set f v) := by
  rw [snapshotLegal_iff] at h ⊢
  simp only [get_set_of_inDomain hv]
  obtain ⟨⟨hm, hu⟩, hw, ho⟩ := h
  have hnv : Field.valid ≠ f := by
    rintro rfl
    exact absurd hv (by simp [inDomain_valid])
  have hfm : Field.mode = f → v.toNat ≤ 7 := by
    rintro rfl
    exact (inDomain_mode c v).1 hv
  have hfu : Field.tempUnits = f → v.toNat ≤ 1 := by
    rintro rfl
    exact (inDomain_tempUnits c v).1 hv
  rw [if_neg hnv]
  refine ⟨⟨?_, ?_⟩, fun hvalid => ⟨?_, ?_⟩, fun g h1 h2 h3 => ?_⟩
  · split_ifs with k
    · exact (hfm k).trans (by decide)
    · exact hm
  · split_ifs with k
    · exact (hfu k).trans (by decide)
    · exact hu
  · split_ifs with k
    · exact hfm k
    · exact (hw hvalid).1
  · split_ifs with k
    · exact hfu k
    · exact (hw hvalid).2
  · split_ifs with k
    · exact k ▸ hv
    · exact ho g h1 h2 h3

/-- The reset value of every register but the two with an UNKNOWN code is in its domain. -/
theorem inDomain_reset (c : Config) {f : Field} (h1 : f ≠ .valid) (h2 : f ≠ .mode) (h3 : f ≠ .tempUnits) :
    inDomain c f (DeviceState.reset.get f) = true := by
  by_cases hf : f ∈ codedFields
  · simp only [codedFields, List.mem_cons, List.not_mem_nil, or_false, h1, h2, h3, false_or] at hf
    obtain rfl | rfl | rfl | rfl := hf
    · exact (inDomain_fanState c _).2 (by decide)
    · exact (inDomain_sleepCurveType c _).2 (by decide)
    · exact (inDomain_regionalSwingPosition c _).2 (by decide)
    · exact (inDomain_pass27 c _).2 fun k hk => by simp [DeviceState.get, DeviceState.reset] at hk
  · have hz : DeviceState.reset.get f = 0 := by
      cases f with
      | customSleepCurve k => revert k; decide
      | mode | tempUnits | fanState => exact absurd (by decide) hf
      | _ => rfl
    rw [inDomain_of_not_coded c hf, hz]
    exact Nat.two_pow_pos _

theorem snapshotLegal_reset (c : Config) : SnapshotLegal c DeviceState.reset :=
  ⟨by decide, by decide, fun h => absurd h (by decide), fun _ => inDomain_reset c⟩

/-- The codes of fan_state R205, R206 derive are codes of its domain. -/
theorem fanStateOf_mem (turbo : BitVec 1) (quietType : BitVec 2) (fanSpeed : BitVec 3) :
    (fanStateOf turbo quietType fanSpeed).toNat ≤ 10 ∨ (fanStateOf turbo quietType fanSpeed).toNat = 15 := by
  unfold fanStateOf
  split_ifs with h1 h2 h3 h4 h5
  · decide
  · decide
  · decide
  · decide
  · rw [toNat_setWidth_of_le (by decide)]
    omega
  · decide

/-- Each register of a decoded snapshot with named values holds one of them. -/
theorem inDomain_decodeSnapshot_coded (c : Config) (m : Memory) (d : DeviceState) {f : Field}
    (hf : f ∈ [Field.fanState, .sleepCurveType, .regionalSwingPosition, .pass27]) :
    inDomain c f ((decodeSnapshot c m d).get f) = true := by
  have r := decodeSnapshot_registers c m d
  simp only [List.mem_cons, List.not_mem_nil, or_false] at hf
  obtain rfl | rfl | rfl | rfl := hf
  · rw [inDomain_fanState, DeviceState.get, toNat_setWidth_of_le (by decide), r.fanState]
    exact fanStateOf_mem _ _ _
  · rw [inDomain_sleepCurveType, DeviceState.get, toNat_setWidth_of_le (by decide), r.sleepCurveType]
    have hx := extract_lt m c.params.sleepIndex
    rw [c.sleep_width] at hx
    split_ifs
    · exact .inr rfl
    · rw [BitVec.toNat_ofNat]
      omega
  · rw [inDomain_regionalSwingPosition, DeviceState.get, toNat_setWidth_of_le (by decide), r.regionalSwingPosition]
    have hx : extract m c.params.swingPosition < 2 ^ 8 := extract_lt m c.params.swingPosition
    split_ifs
    · decide
    · rw [BitVec.toNat_ofNat]
      omega
  · rw [inDomain_pass27, DeviceState.get, r.pass27]
    intro k hk
    simp only [BitVec.getLsbD_setWidth, BitVec.getLsbD_and, Bool.and_eq_true] at hk
    exact hk.2.2

/-- DECODE's snapshot is legal, whatever frame it reads and whatever snapshot it replaces. -/
theorem snapshotLegal_decodeSnapshot (c : Config) (m : Memory) (d : DeviceState) :
    SnapshotLegal c (decodeSnapshot c m d) := by
  have r := decodeSnapshot_registers c m d
  have hm : (decodeSnapshot c m d).mode.toNat ≤ 7 := by
    have hx : extract m Wire.mode < 2 ^ 3 := extract_lt m Wire.mode
    rw [r.mode, BitVec.toNat_ofNat]
    omega
  have hu : (decodeSnapshot c m d).tempUnits.toNat ≤ 1 := by
    have hx : extract m Wire.tempUnits < 2 ^ 1 := extract_lt m Wire.tempUnits
    rw [r.tempUnits, BitVec.toNat_ofNat]
    omega
  refine ⟨hm.trans (by decide), hu.trans (by decide), fun _ => ⟨hm, hu⟩, fun f h1 h2 h3 => ?_⟩
  by_cases hc : f ∈ codedFields
  · refine inDomain_decodeSnapshot_coded c m d ?_
    simpa [codedFields, h1, h2, h3] using hc
  · rw [inDomain_of_not_coded c hc]
    by_cases hmap : f ∈ Field.mapped
    · rw [decodeSnapshot_mapped c m d hmap, ← c.mapped_width hmap]
      exact extract_lt m _
    · have hopen : openWidthFields ⊆ Field.mapped := by decide
      rw [wireWidth_of_not_open _ fun ho => hmap (hopen ho)]
      exact DeviceState.get_lt _ f

/-! #### The commands and the snapshot -/

/-- WRF of a register's own id is accepted just when the value is of the register's domain. -/
theorem wrf_accepts_iff (s : State) (f : Field) (v : Half) :
    (∃ t, exec (.wrf f.id v) s = .next t ∧ t.err = .ok) ↔ inDomain Config.machine f v = true := by
  simp only [exec, execWrf, writeField, fieldOfId?_id]
  split_ifs with h
  · exact iff_of_true ⟨_, rfl, rfl⟩ h
  · refine iff_of_false ?_ h
    rintro ⟨t, ht, he⟩
    rw [raise_next.1 ht] at he
    cases he

/-- Settles O27: WRF accepts the values `inDomain` admits, read off field by field. -/
theorem wrfAcceptsExactlyTheDomain : Obligations.WrfAcceptsExactlyTheDomain := by
  intro s v p accepts
  have hacc : ∀ f, accepts f ↔ inDomain Config.machine f v = true := fun f => wrf_accepts_iff s f v
  have hwidth : ∀ f, f ∉ codedFields → (accepts f ↔ v.toNat < 2 ^ p.wireWidth f) := fun f hf =>
    (hacc f).trans (inDomain_of_not_coded _ hf v)
  refine ⟨(hacc _).trans (inDomain_mode _ v), (hacc _).trans (inDomain_tempUnits _ v),
    (hacc _).trans (inDomain_fanState _ v), ?sleep, (hacc _).trans (inDomain_regionalSwingPosition _ v), ?pass,
    hwidth _ (by decide), hwidth _ (by decide), hwidth _ (by decide), hwidth _ (by decide),
    fun k => hwidth _ (by simp [codedFields]), hwidth _ (by decide), ?valid, fun f hf hcurve => ?plain⟩
  case sleep =>
    rw [hacc, inDomain_sleepCurveType]
    simp only [List.mem_cons, List.not_mem_nil, or_false]
    omega
  case pass =>
    rw [hacc]
    exact ⟨fun h => ⟨lt_of_inDomain h, (inDomain_pass27 _ v).1 h⟩, fun h => (inDomain_pass27 _ v).2 h.2⟩
  case valid =>
    rw [hacc, inDomain_valid]
    decide
  case plain =>
    simp only [List.mem_cons, List.not_mem_nil, or_false, not_or] at hf
    have hcoded : f ∉ codedFields := by simp [codedFields, hf]
    have hopen : f ∉ openWidthFields := by simp [openWidthFields, hf, hcurve]
    exact wireWidth_of_not_open p hopen ▸ hwidth f hcoded

end Sys2Proof.Machine

/-! ### VALID and STATUS -/

namespace Sys2Proof.Machine

/-- A write to a register other than VALID leaves VALID. -/
theorem set_valid_of_ne (d : DeviceState) {f : Field} (v : Half) (h : Field.valid ≠ f) : (d.set f v).valid = d.valid :=
  eq_of_setWidth_eq (by decide) (DeviceState.get_set_other d v h)

/-- DECODE's preconditions hold when none of them fails (R201). -/
theorem decodeReady_of_decodeError {s : State} (h : decodeError s = none) : DecodeReady s := by
  unfold decodeError at h
  split_ifs at h with h1 h2 h3
  exact ⟨by simpa using h1, not_lt.1 h2, by tauto⟩

/-- What a command does to VALID: a DECODE that passes its preconditions sets it, SRST clears it, every other command
keeps it (R23). -/
theorem Effect.valid {i : Instr} {s u : State} {e : ErrCode} (h : Effect i s u e) :
    (i = .decode ∧ DecodeReady s ∧ e = .ok ∧ u.ds.valid = 1) ∨ (i = .srst ∧ u.ds.valid = 0)
      ∨ u.ds.valid = s.ds.valid := by
  cases h with
  | decode unrec quiet3 hn =>
    exact .inl ⟨rfl, decodeReady_of_decodeError hn, rfl, (decodeSnapshot_registers _ _ _).valid⟩
  | srst => exact .inr (.inl ⟨rfl, rfl⟩)
  | wrf field value hf hd =>
    refine .inr (.inr (set_valid_of_ne _ _ ?_))
    rintro rfl
    exact absurd hd (by simp [inDomain_valid])
  | _ => exact .inr (.inr (by simp))

/-- Settles O55: of the three things a command can do to VALID, only the first raises it and only the second lowers it. -/
theorem validIsSetByDecodeAndClearedByReset : Obligations.ValidIsSetByDecodeAndClearedByReset := by
  intro i s t ht
  obtain ⟨u, e, v, rfl, -, he⟩ := exec_cases ht
  simp only [State.finish_ds, State.finish_err]
  obtain ⟨rfl, hready, rfl, hu⟩ | ⟨rfl, hu⟩ | hu := he.valid
  · exact ⟨fun _ _ => ⟨rfl, hready, rfl⟩, fun _ h0 => absurd (hu.symm.trans h0) (by decide)⟩
  · exact ⟨fun _ h1 => absurd (hu.symm.trans h1) (by decide), fun _ _ => rfl⟩
  · exact ⟨fun h0 h1 => absurd (h0.symm.trans (hu.symm.trans h1)) (by decide),
      fun h1 h0 => absurd (h1.symm.trans (hu.symm.trans h0)) (by decide)⟩

/-- The value of a concatenation, high part first. -/
theorem toNat_append_eq {m n : Nat} (x : BitVec m) (y : BitVec n) :
    (x ++ y).toNat = x.toNat * 2 ^ n + y.toNat := by
  rw [BitVec.toNat_append, ← Nat.shiftLeft_add_eq_or_of_lt y.isLt, Nat.shiftLeft_eq]

theorem ErrCode.code_le (e : ErrCode) : e.code.toNat ≤ 11 := by
  cases e <;> decide

/-- Settles O52: STATUS is a concatenation, and the codes are those of the table. -/
theorem statusIsLaidOutAsTabled : Obligations.StatusIsLaidOutAsTabled := by
  refine ⟨fun s => ⟨?_, s.err.code_le⟩, rfl, rfl, rfl, rfl, rfl, rfl, rfl, rfl, rfl, rfl, rfl, rfl⟩
  simp only [State.status, toNat_append_eq, BitVec.toNat_ofBool]
  omega

end Sys2Proof.Machine

/-! ### The invariant -/

namespace Sys2Proof.Machine

/-! #### Frames a command offers -/

/-- Sealing bytes that start with a header whose length byte agrees gives a frame (R66, R150). -/
theorem wellFramed_sealFrame {m : Memory} {n : Nat} (h0 : m.read 0 = 0x7E#8) (h1 : m.read 1 = 0x7E#8)
    (hb : (m.read 2).toNat ≤ 60) (hn : n = 3 + (m.read 2).toNat) (h4 : 4 ≤ n) : WellFramed (sealFrame m n) n := by
  have keep : ∀ a, a < 3 → (sealFrame m n).read a = m.read a := fun a ha => by
    rw [read_sealFrame, if_neg (by omega)]
  refine ⟨?_, ?_, ?_, ?_, h4, sealFrame_sum m h4⟩
  · rw [keep 0 (by decide), h0]
  · rw [keep 1 (by decide), h1]
  · rw [keep 2 (by decide)]
    exact hb
  · rw [keep 2 (by decide)]
    exact hn

theorem sealFrame_wf {m : Memory} (h : m.wf = true) {n : Nat} (hn : n ≤ bufferCap) : (sealFrame m n).wf = true :=
  Memory.write_wf h (by simp only [bufferCap] at *; omega) _

/-- WRAP's bytes form a frame for every payload it accepts (R160). -/
theorem wellFramed_wrap (m : Memory) (type : Byte) {len : Byte} (h : len.toNat ≤ maxPayload) {n : Nat}
    (hn : n = len.toNat + 5) : WellFramed (sealFrame (writeHeader m (len + 2) type) n) n := by
  simp only [maxPayload] at h
  have h2 : ((writeHeader m (len + 2) type).read 2).toNat = len.toNat + 2 := by
    rw [read_writeHeader, if_neg (by decide), if_pos rfl, BitVec.toNat_add]
    exact Nat.mod_eq_of_lt (lt_of_le_of_lt (Nat.add_le_add_right h 2) (by decide))
  exact wellFramed_sealFrame (by simp [read_writeHeader]) (by simp [read_writeHeader]) (by omega) (by omega) (by omega)

/-- QUERY's last byte 0x04 is the checksum of its others (R163). -/
theorem query_eq_sealFrame (m : Memory) :
    (writeHeader m 0x02#8 typeQuery).write 4 0x04#8 = sealFrame (writeHeader m 0x02#8 typeQuery) 5 := by
  have hsum : frameSum (writeHeader m 0x02#8 typeQuery) 5 = 0x04#8 := by
    simp [frameSum, sumBytes, read_writeHeader]
  rw [sealFrame, hsum]

theorem wellFramed_query (m : Memory) : WellFramed ((writeHeader m 0x02#8 typeQuery).write 4 0x04#8) 5 := by
  rw [query_eq_sealFrame]
  exact wellFramed_sealFrame (by simp [read_writeHeader]) (by simp [read_writeHeader]) (by simp [read_writeHeader])
    (by simp [read_writeHeader]) (by decide)

/-- A 40-byte frame sealed over the header ENCODE and ENCRT start from (R250, R258). -/
theorem wellFramed_of_packInit {m : Memory} (h : ∀ a, a < 3 → m.read a = packInit.read a) :
    WellFramed (sealFrame m cmdFrameLen) 40 := by
  have h0 := h 0 (by decide)
  have h1 := h 1 (by decide)
  have h2 := h 2 (by decide)
  rw [read_packInit] at h0 h1 h2
  exact wellFramed_sealFrame h0 h1 (by rw [h2]; decide) (by rw [h2]; decide) (by decide)

theorem wellFramed_commandFrame (c : Config) (d : DeviceState) (latch : BitVec 1) :
    WellFramed (commandFrame c d latch) 40 := by
  refine wellFramed_of_packInit fun a ha => ?_
  rw [read_pack_outside c _ latch (.inl (by omega)), Memory.read_write_other]
  simp only [Wire.intentByte]
  omega

theorem wellFramed_remoteTempFrame (c : Config) (d : DeviceState) : WellFramed (remoteTempFrame c d) 40 := by
  refine wellFramed_of_packInit fun a ha => ?_
  rw [read_insertBits_outside, Memory.read_write_other]
  · simp only [Wire.intentByte]
    omega
  · intro sg hsg
    have := c.mapped_seg (g := .remoteTempVal) (by decide) hsg
    omega

/-! #### The named updates keep the invariant -/

namespace State.Inv

variable {s : State}

/-- The invariant does not speak of STATUS.ERR and RESULT. -/
theorem finish (h : s.Inv) (e : ErrCode) (r : Half) : (s.finish e r).Inv :=
  ⟨h.rxWf, h.txWf, h.rxBeyond, h.rxValidated, h.txFrame, h.snapshot⟩

/-- The invariant does not speak of the WARN bits. -/
theorem withWarnings (h : s.Inv) (u q : Bool) : (s.withWarnings u q).Inv :=
  ⟨h.rxWf, h.txWf, h.rxBeyond, h.rxValidated, h.txFrame, h.snapshot⟩

/-- The invariant does not speak of the words still to come and their index. -/
theorem withStream (h : s.Inv) (rest : List Word) (k : Nat) : State.Inv { s with pending := rest, index := k } :=
  ⟨h.rxWf, h.txWf, h.rxBeyond, h.rxValidated, h.txFrame, h.snapshot⟩

theorem withDs (h : s.Inv) {d : DeviceState} (hd : SnapshotLegal Config.machine d) : (s.withDs d).Inv :=
  ⟨h.rxWf, h.txWf, h.rxBeyond, h.rxValidated, h.txFrame, hd⟩

/-- Replacing RX clears RXOK, so nothing has to be a frame. -/
theorem withRx (h : s.Inv) {m : Memory} {len : Fin 65} (hm : m.wf = true)
    (hb : ∀ a, len.val ≤ a → m.read a = 0#8) : (s.withRx m len).Inv :=
  ⟨hm, h.txWf, hb, nofun, h.txFrame, h.snapshot⟩

theorem withRxok (h : s.Inv) {b : Bool} (hb : b = true → WellFramed s.rx s.rxlen.val) : (s.withRxok b).Inv :=
  ⟨h.rxWf, h.txWf, h.rxBeyond, hb, h.txFrame, h.snapshot⟩

theorem withTx (h : s.Inv) {m : Memory} {len : Fin 65} (hm : m.wf = true)
    (hf : len.val ≠ 0 → WellFramed m len.val) : (s.withTx m len).Inv :=
  ⟨h.rxWf, hm, h.rxBeyond, h.rxValidated, hf, h.snapshot⟩

/-- Withdrawing the transmit frame. -/
theorem withTxlen_zero (h : s.Inv) : (s.withTxlen 0).Inv :=
  ⟨h.rxWf, h.txWf, h.rxBeyond, h.rxValidated, fun hne => absurd rfl hne, h.snapshot⟩

/-- A reset state meets the invariant, whatever its words still to come. -/
theorem softReset (s : State) : s.softReset.Inv :=
  ⟨Memory.zero_wf, Memory.zero_wf, fun a _ => Memory.read_zero a, nofun, fun hne => absurd rfl hne,
    snapshotLegal_reset _⟩

/-- RXPUSH writes at RXLEN, and the new RXLEN is beyond it (R134). -/
theorem rxpush (h : s.Inv) (byte : Byte) (hlt : s.rxlen.val < bufferCap) :
    (s.withRx (s.rx.write s.rxlen.val byte) ⟨s.rxlen.val + 1, Nat.succ_lt_succ hlt⟩).Inv := by
  refine h.withRx (Memory.write_wf h.rxWf hlt _) fun a ha => ?_
  have ha : s.rxlen.val + 1 ≤ a := ha
  rw [Memory.read_write_other _ _ _ (by omega), h.rxBeyond a (by omega)]

end State.Inv

/-- Every effect of a command keeps the invariant. -/
theorem Effect.keeps_inv {i : Instr} {s u : State} {e : ErrCode} (he : Effect i s u e) (h : s.Inv) : u.Inv := by
  cases he with
  | read | fail => exact h
  | rxclr => exact h.withRx Memory.zero_wf fun a _ => Memory.read_zero a
  | rxpush byte hlt => exact h.rxpush byte hlt
  | txclr => exact h.withTx Memory.zero_wf fun hne => absurd rfl hne
  | txput index byte hlt => exact h.withTx (Memory.write_wf h.txWf hlt _) fun hne => absurd rfl hne
  | validates hv => exact h.withRxok fun _ => wellFramed_of_validateError hv
  | rejects => exact h.withRxok nofun
  | wrap type len n hlen hn =>
    exact h.withTx (sealFrame_wf (writeHeader_wf h.txWf _ _) (Nat.le_of_lt_succ n.isLt)) fun _ =>
      wellFramed_wrap _ _ hlen hn
  | query => exact h.withTx (Memory.write_wf (writeHeader_wf h.txWf _ _) (by decide) _) fun _ => wellFramed_query _
  | decode unrec quiet3 => exact (h.withDs (snapshotLegal_decodeSnapshot _ _ _)).withWarnings _ _
  | encode latch => exact h.withTx (commandFrame_wf _ _ _) fun _ => wellFramed_commandFrame _ _ _
  | encrt => exact h.withTx (remoteTempFrame_wf _ _) fun _ => wellFramed_remoteTempFrame _ _
  | refusesEncode | refusesEncrt => exact h.withTxlen_zero
  | wrf field value hf hd => exact h.withDs (h.snapshot.set hd)
  | srst => exact State.Inv.softReset s

theorem exec_keeps_inv {i : Instr} {s t : State} (h : s.Inv) (ht : exec i s = .next t) : t.Inv := by
  obtain ⟨u, e, v, rfl, -, he⟩ := exec_cases ht
  exact (he.keeps_inv h).finish e v

/-- Settles O10: a step is idle, one effect of a command, or an illegal word, and each keeps the invariant. -/
theorem stepKeepsTheInvariant : Obligations.StepKeepsTheInvariant := by
  intro s t h ht
  obtain ⟨-, rfl⟩ | ⟨w, rest, -, ⟨i, -, hi⟩ | rfl⟩ := step_cases ht
  · exact h
  · exact exec_keeps_inv (h.withStream rest _) hi
  · exact (h.withStream rest _).finish _ _

end Sys2Proof.Machine

/-! ### The writers of the snapshot and the buffers -/

namespace Sys2Proof.Machine

section

variable {i : Instr} {s u : State} {e : ErrCode}

/-- What a command does to the snapshot: it is kept, or a command that writes it has ended without an error (R213). -/
theorem Effect.ds (h : Effect i s u e) :
    u.ds = s.ds ∨ (e = .ok ∧ ((i = .decode ∧ DecodeReady s) ∨ (∃ f v, i = .wrf f v) ∨ i = .srst)) := by
  cases h with
  | decode unrec quiet3 hn => exact .inr ⟨rfl, .inl ⟨rfl, decodeReady_of_decodeError hn⟩⟩
  | wrf field value => exact .inr ⟨rfl, .inr (.inl ⟨field, value, rfl⟩)⟩
  | srst => exact .inr ⟨rfl, .inr (.inr rfl)⟩
  | _ => exact .inl (by simp)

/-- Only RXCLR, RXPUSH and SRST write the receive buffer (R60, R157, R213). -/
theorem Effect.keeps_rx (h : Effect i s u e) (hclr : i ≠ .rxclr) (hpush : ∀ b, i ≠ .rxpush b) (hrst : i ≠ .srst) :
    u.rx = s.rx ∧ u.rxlen = s.rxlen := by
  cases h with
  | rxclr => exact absurd rfl hclr
  | rxpush byte => exact absurd rfl (hpush byte)
  | srst => exact absurd rfl hrst
  | _ => simp

/-- Only TXCLR, TXPUT, SRST and the commands that produce a frame write the transmit buffer, a refused ENCODE or ENCRT
included (R60, R263). -/
theorem Effect.keeps_tx (h : Effect i s u e) (hclr : i ≠ .txclr) (hput : ∀ a b, i ≠ .txput a b)
    (hprod : ¬ ProducesFrame i) (hrst : i ≠ .srst) : u.tx = s.tx ∧ u.txlen = s.txlen := by
  cases h with
  | txclr => exact absurd rfl hclr
  | txput index byte => exact absurd rfl (hput index byte)
  | wrap type len => exact absurd (.inl ⟨type, len, rfl⟩) hprod
  | query => exact absurd (.inr (.inl rfl)) hprod
  | encode latch | refusesEncode latch => exact absurd (.inr (.inr (.inl ⟨latch, rfl⟩))) hprod
  | encrt | refusesEncrt => exact absurd (.inr (.inr (.inr rfl))) hprod
  | srst => exact absurd rfl hrst
  | _ => simp

end

/-- Settles O57: the effect of a command writes a register file only when the command is one of its writers. -/
theorem eachRegisterFileHasOnlyItsWriters : Obligations.EachRegisterFileHasOnlyItsWriters := by
  intro i s t ht
  obtain ⟨u, e, v, rfl, -, he⟩ := exec_cases ht
  exact ⟨he.ds.resolve_left, he.keeps_rx, he.keeps_tx⟩

end Sys2Proof.Machine

/-! ### The bits of a command frame outside every position -/

namespace Sys2Proof.Machine

/-- With VALID set ENCODE replaces TX by the command frame of the snapshot (R240, R258). -/
theorem exec_encode_of_valid {s : State} (latch : BitVec 1) (hv : s.ds.valid = 1) :
    exec (.encode latch) s = succeed (s.withTx (commandFrame Config.machine s.ds latch) 40) 40 :=
  if_neg (by simp [hv])

/-- Before any field is packed, a command frame holds its header and its intent byte only (R250). -/
theorem read_packInit_write_intent {a : Nat} (h : 5 ≤ a) (b : Byte) :
    (packInit.write Wire.intentByte b).read a = 0#8 := by
  have hi : a ≠ Wire.intentByte := by
    simp only [Wire.intentByte]
    omega
  rw [Memory.read_write_other _ _ _ hi, read_packInit, if_neg (by omega), if_neg (by omega), if_neg (by omega)]

theorem pass27Cells_subset_coveredCells (p : Params) : p.pass27Cells ⊆ p.coveredCells := fun _ h =>
  List.mem_append_left _ (List.mem_append_right _ h)

/-- A bit of bytes 5..38 of a command frame that no position covers is 0 (R77): no part and no pass-through bit reaches
it, and the checksum is in byte 39. -/
theorem frameBit_commandFrame_uncovered (c : Config) (d : DeviceState) (latch : BitVec 1) {cell : Nat}
    (h5 : 5 ≤ cell / 8) (h38 : cell / 8 ≤ 38) (hc : cell ∉ c.params.coveredCells) :
    frameBit (commandFrame c d latch) cell = false := by
  have hseal : cell / 8 ≠ cmdFrameLen - 1 := by
    simp only [cmdFrameLen]
    omega
  have hparts : ∀ p ∈ packParts c (normalise d), cell ∉ segsCells p.1 := fun p hp hm =>
    hc (packParts_covered c _ hp hm).1
  have hpass : cell ∉ c.params.pass27Cells := fun hm => hc (pass27Cells_subset_coveredCells _ hm)
  rw [commandFrame, frameBit_sealFrame _ _ _ hseal, frameBit_pack_outside c _ latch cell hparts, frameBit,
    read_packInit_write_intent h5]
  simp [hpass]

/-- Settles O46: with VALID set ENCODE emits the command frame, whose uncovered bits are 0. -/
theorem encodeLeavesUncoveredBitsZero : Obligations.EncodeLeavesUncoveredBitsZero := by
  intro s latch hv
  refine ⟨_, (exec_encode_of_valid latch hv).trans (succeed_next.2 rfl), fun cell h5 h38 hc => ?_⟩
  rw [State.finish_tx, State.withTx_tx]
  exact frameBit_commandFrame_uncovered _ _ _ h5 h38 hc

end Sys2Proof.Machine

/-! ### Words and the commands they stand for -/

namespace Sys2Proof

/-- The command with the OP of this one that a word with operands A and B stands for: the operands R102 says the command
uses, cut from A and B. -/
def Instr.withOperands (a : Byte) (b : Half) : Instr → Instr
  | .rxpush _ => .rxpush (b.setWidth 8)
  | .rxrd _ => .rxrd a
  | .txput _ _ => .txput a (b.setWidth 8)
  | .txrd _ => .txrd a
  | .wrap _ _ => .wrap a (b.setWidth 8)
  | .encode _ => .encode (a.setWidth 1)
  | .rdf _ => .rdf a
  | .wrf _ _ => .wrf a b
  | .tdec _ _ _ _ => .tdec (a.setWidth 1) (b.setWidth 4) ((b >>> 4).setWidth 1) ((b >>> 5).setWidth 1)
  | .tenc _ _ => .tenc (a.setWidth 1) (b.setWidth 8)
  | i => i

/-- Bits of a word below 16 are bits of B. -/
theorem extractLsb'_eq_bOf (w : Word) {k n : Nat} (h : k + n ≤ 16) :
    w.extractLsb' k n = (bOf w >>> k).setWidth n := by
  apply BitVec.eq_of_getLsbD_eq
  intro i hi
  have : k + i < 16 := by omega
  simp [bOf, hi, this]

/-- Decoding is a match on OP alone (R102): a word with the OP of a command is that command with the word's operands. -/
theorem decode_of_opcode {w : Word} {i : Instr} (h : opOf w = Laws.OpField.opcode i) :
    decode w = .ok (i.withOperands (aOf w) (bOf w)) := by
  unfold decode
  rw [h]
  cases i with
  | tdec =>
    simp [Laws.OpField.opcode, Instr.withOperands, flagOf_eq, extractLsb'_eq_bOf w (k := 0) (n := 4) (by decide),
      extractLsb'_eq_bOf w (k := 4) (n := 1) (by decide), extractLsb'_eq_bOf w (k := 5) (n := 1) (by decide)]
  | _ => simp [Laws.OpField.opcode, Instr.withOperands, b8Of_eq, flagOf_eq]

/-- The word {OP, A, B} of a command's OP is that command with operands from A and B. -/
theorem decode_cmdWord (i : Instr) (a : Byte) (b : Half) :
    decode (cmdWord (Laws.OpField.opcode i) a b) = .ok (i.withOperands a b) := by
  rw [decode_of_opcode (opOf_cmdWord _ a b), aOf_cmdWord, bOf_cmdWord]

/-- B of a TDEC word as the assembler writes it holds u in bits 3:0, lo in bit 4 and h in bit 5 (R284). -/
theorem tdecOperand_slices (upper : BitVec 4) (lo h : BitVec 1) :
    let b : Half := upper.setWidth 16 ||| lo.setWidth 16 <<< 4 ||| h.setWidth 16 <<< 5
    b.setWidth 4 = upper ∧ (b >>> 4).setWidth 1 = lo ∧ (b >>> 5).setWidth 1 = h := by
  refine ⟨BitVec.eq_of_getLsbD_eq fun i hi => ?_, BitVec.eq_of_getLsbD_eq fun i hi => ?_,
    BitVec.eq_of_getLsbD_eq fun i hi => ?_⟩
  · simp [hi]
  · obtain rfl : i = 0 := by omega
    simp
  · obtain rfl : i = 0 := by omega
    simp

/-- The word of a command carries the command's OP (R102). -/
theorem opOf_encode (i : Instr) : opOf (encode i) = Laws.OpField.opcode i := by
  cases i <;> exact opOf_cmdWord _ _ _

/-- The operands cut from the word of a command are the command's own (R100, R101). -/
theorem withOperands_encode (i : Instr) : i.withOperands (aOf (encode i)) (bOf (encode i)) = i := by
  cases i with
  | tdec units upper lo h => simp [encode, aOf_cmdWord, bOf_cmdWord, Instr.withOperands, tdecOperand_slices upper lo h]
  | _ => simp [encode, aOf_cmdWord, bOf_cmdWord, Instr.withOperands]

/-- Settles O4: the word of a command carries its OP, which decides the command, and its operands. -/
theorem decodeOfEncodeIsTheCommand : Obligations.DecodeOfEncodeIsTheCommand := by
  intro i
  rw [decode_of_opcode (opOf_encode i), withOperands_encode]

/-- Settles O2: the nine words are evaluated. -/
theorem specWordsDecodeAsTheirCommands : Obligations.SpecWordsDecodeAsTheirCommands :=
  ⟨rfl, rfl, rfl, rfl, rfl, rfl, rfl, rfl, rfl⟩

/-- Settles O3: each row of the map is the word of one command's OP. -/
theorem opcodeMapOfEveryWord : Obligations.OpcodeMapOfEveryWord := fun a b =>
  ⟨decode_cmdWord .nop a b, decode_cmdWord .rxclr a b, decode_cmdWord (.rxpush 0) a b, decode_cmdWord (.rxrd 0) a b,
    decode_cmdWord .txclr a b, decode_cmdWord (.txput 0 0) a b, decode_cmdWord (.txrd 0) a b,
    decode_cmdWord .cksum a b, decode_cmdWord .hdrchk a b, decode_cmdWord .validate a b,
    decode_cmdWord (.wrap 0 0) a b, decode_cmdWord .query a b, decode_cmdWord .decode a b,
    decode_cmdWord (.encode 0) a b, decode_cmdWord .encrt a b, decode_cmdWord (.rdf 0) a b,
    decode_cmdWord (.wrf 0 0) a b, decode_cmdWord (.tdec 0 0 0 0) a b, decode_cmdWord (.tenc 0 0) a b,
    decode_cmdWord .srst a b⟩

/-- OP is the number above the low 24 bits. -/
theorem toNat_opOf (w : Word) : (opOf w).toNat = w.toNat / 2 ^ 24 := by
  have := w.isLt
  simp only [opOf, BitVec.extractLsb'_toNat, Nat.shiftRight_eq_div_pow]
  omega

end Sys2Proof

namespace Sys2Proof.Machine

/-- R103's ranges and R102's OP values have no value in common. -/
theorem decode_of_illegalOp {w : Word} (h : IllegalOp (opOf w).toNat) :
    decode w = .error (.illegalOp (opOf w)) := by
  unfold decode
  unfold IllegalOp at h
  split
  case h_21 => rfl
  all_goals omega

/-- Settles O5: an illegal OP is rejected by the decoder, and the step raises IllegalCommand; the 236 are counted. -/
theorem illegalCommandChangesNothingElse : Obligations.IllegalCommandChangesNothingElse := by
  refine ⟨fun s w rest hp h => ?_, rfl, by decide +kernel⟩
  rw [← toNat_opOf] at h
  exact (step_of_illegal hp (decode_of_illegalOp h)).trans (raise_next.2 rfl)

end Sys2Proof.Machine

/-! ### Sequences of commands and the flows -/

namespace Sys2Proof.Machine

/-! #### Running one command after another -/

/-- A sequence runs its first command and then the rest (R90). -/
theorem runAll_cons {i : Instr} {is : List Instr} {s t : State} (h : exec i s = .next t) :
    runAll (i :: is) s = runAll is t := by
  simp [runAll, h]

/-- A sequence runs its first part and then the second. -/
theorem runAll_append {is js : List Instr} {s t : State} (h : runAll is s = .next t) :
    runAll (is ++ js) s = runAll js t := by
  induction is generalizing s with
  | nil =>
    cases h
    rfl
  | cons i is ih =>
    obtain ⟨u, e, v, hu, -, -⟩ := exec_effect i s
    rw [runAll_cons hu] at h
    rw [List.cons_append, runAll_cons hu, ih h]

/-! #### Bytes written one after another -/

/-- Bytes written to a buffer from an index on. -/
def Memory.writeBytes (m : Memory) : Nat → List Byte → Memory
  | _, [] => m
  | a, b :: bs => (m.write a b).writeBytes (a + 1) bs

theorem Memory.read_writeBytes_below (m : Memory) (bs : List Byte) {a x : Nat} (h : x < a) :
    (m.writeBytes a bs).read x = m.read x := by
  induction bs generalizing m a with
  | nil => rfl
  | cons b bs ih => rw [writeBytes, ih _ (by omega), read_write_other _ _ _ (by omega)]

theorem Memory.read_writeBytes (m : Memory) (a : Nat) (bs : List Byte) {k : Nat} (h : k < bs.length) :
    (m.writeBytes a bs).read (a + k) = bs[k] := by
  induction bs generalizing m a k with
  | nil => exact absurd h (Nat.not_lt_zero k)
  | cons b bs ih =>
    cases k with
    | zero => exact (read_writeBytes_below _ bs (Nat.lt_succ_self a)).trans (read_write_same m a b)
    | succ k =>
      rw [writeBytes, show a + (k + 1) = a + 1 + k by omega, ih _ _ (Nat.lt_of_succ_lt_succ h),
        List.getElem_cons_succ]

/-! #### Loading the receive buffer -/

/-- The state after RX has taken one more byte (R134). -/
def pushed (s : State) (byte : Byte) (h : s.rxlen.val < 64) : State :=
  s.withRx (s.rx.write s.rxlen.val byte) ⟨s.rxlen.val + 1, Nat.succ_lt_succ h⟩

@[simp] theorem pushed_rxlen (s : State) (byte : Byte) (h : s.rxlen.val < 64) :
    (pushed s byte h).rxlen.val = s.rxlen.val + 1 := rfl

/-- RXPUSH below 64 bytes (R134). -/
theorem exec_rxpush_of_lt {s : State} (byte : Byte) (h : s.rxlen.val < 64) :
    exec (.rxpush byte) s = succeed (pushed s byte h) (BitVec.ofNat 16 (s.rxlen.val + 1)) := dif_pos h

/-- RXPUSH after RXPUSH appends the bytes as long as they fit, and touches neither TX nor the snapshot. -/
theorem runAll_rxpush (bytes : List Byte) {s : State} (h : s.rxlen.val + bytes.length ≤ 64) :
    ∃ u, runAll (bytes.map Instr.rxpush) s = .next u ∧ u.rxlen.val = s.rxlen.val + bytes.length
      ∧ u.rx = s.rx.writeBytes s.rxlen.val bytes ∧ u.tx = s.tx ∧ u.txlen = s.txlen ∧ u.ds = s.ds := by
  induction bytes generalizing s with
  | nil => exact ⟨s, rfl, rfl, rfl, rfl, rfl, rfl⟩
  | cons b bs ih =>
    rw [List.length_cons] at h
    have hlt : s.rxlen.val < 64 := by omega
    obtain ⟨u, hu, hlen, hkeep⟩ := ih (s := (pushed s b hlt).finish .ok (BitVec.ofNat 16 (s.rxlen.val + 1)))
      (by simp only [State.finish_rxlen, pushed_rxlen]; omega)
    simp only [State.finish_rxlen, pushed_rxlen] at hlen
    refine ⟨u, (runAll_cons (exec_rxpush_of_lt b hlt)).trans hu, ?_, hkeep⟩
    rw [hlen, List.length_cons]
    omega

/-- LOADRX of the n bytes of a frame leaves RX holding them, whatever it held before (R106). -/
theorem runAll_loadrx (m : Memory) {n : Nat} (h : n ≤ 64) (s : State) :
    ∃ u, runAll (pseudoLoadrx (frameBytes m n)) s = .next u ∧ u.rxlen.val = n
      ∧ (∀ a, a < n → u.rx.read a = m.read a) ∧ u.tx = s.tx ∧ u.txlen = s.txlen ∧ u.ds = s.ds := by
  have hn : (frameBytes m n).length = n := by simp [frameBytes]
  have hclr : exec .rxclr s = .next ((s.withRx Memory.zero 0).finish .ok 0) := rfl
  obtain ⟨u, hu, hlen, hrx, hkeep⟩ :=
    runAll_rxpush (frameBytes m n) (s := (s.withRx Memory.zero 0).finish .ok 0) (by simp [hn, h])
  refine ⟨u, (runAll_cons hclr).trans hu, by simpa [hn] using hlen, fun a ha => ?_, hkeep⟩
  have ha' : a < (frameBytes m n).length := by rwa [hn]
  have hr := Memory.read_writeBytes Memory.zero 0 (frameBytes m n) ha'
  rw [hrx]
  simpa [frameBytes] using hr

/-! #### A frame validates and decodes -/

/-- VALIDATE's checks pass over a frame (R155). -/
theorem validateError_of_wellFramed {m : Memory} {n : Nat} (h : WellFramed m n) : validateError m n = none := by
  have h4 := h.enough
  have hhdr : hdrOk (m.read 0) (m.read 1) (m.read 2) = true := (hdrOk_iff _ _ _).2 ⟨h.sync0, h.sync1, h.bound⟩
  have hsum : frameSum m n = m.read (n - 1) := BitVec.eq_of_toNat_eq ((frameSum_toNat m h4).trans h.sum.symm)
  have hlen := h.length
  rw [validateError, if_neg (by omega), if_neg (by simp [hhdr]), if_neg (by omega), checksum, if_neg (by omega)]
  exact if_pos hsum

/-- Over a frame VALIDATE sets RXOK and reports the length (R155). -/
theorem exec_validate_of_wellFramed {s : State} (h : WellFramed s.rx s.rxlen.val) :
    exec .validate s = succeed (s.withRxok true) (BitVec.ofNat 16 s.rxlen.val) := by
  simp [exec, execValidate, validateError_of_wellFramed h]

/-- None of DECODE's preconditions fails when all hold (R201). -/
theorem decodeError_of_decodeReady {s : State} (h : DecodeReady s) : decodeError s = none := by
  have ht : ¬ (s.rx.read 3 ≠ typeStatusA ∧ s.rx.read 3 ≠ typeStatusB) := by
    rw [not_and_or, not_ne_iff, not_ne_iff]
    exact h.type
  rw [decodeError, if_neg (by simp [h.validated]), if_neg (not_lt.2 h.long), if_neg ht]

/-- With its preconditions met DECODE commits the snapshot of the frame in RX (R212). -/
theorem exec_decode_of_decodeReady {s : State} (h : DecodeReady s) :
    ∃ unrec quiet3, exec .decode s =
      succeed ((s.withDs (decodeSnapshot Config.machine s.rx s.ds)).withWarnings unrec quiet3) 0 := by
  have hn := decodeError_of_decodeReady h
  obtain ⟨e, he, -⟩ | ⟨-, hd⟩ := decodeFrame_cases Config.machine s
  · exact absurd (he.symm.trans hn) nofun
  · exact ⟨_, _, hd⟩

/-- is_on is bit 7 of byte 8 (R202). -/
theorem decodeSnapshot_isOn_toNat (c : Config) (f : Memory) (d : DeviceState) :
    (decodeSnapshot c f d).isOn.toNat = (f.read 8).toNat / 128 := by
  have hlt := (f.read 8).isLt
  rw [(decodeSnapshot_registers c f d).isOn, Wire.isOn, extract_single, BitVec.toNat_ofNat, slice]
  omega

/-- mode is bits 6-4 of byte 8 (R202). -/
theorem decodeSnapshot_mode_toNat (c : Config) (f : Memory) (d : DeviceState) :
    (decodeSnapshot c f d).mode.toNat = (f.read 8).toNat / 16 % 8 := by
  rw [(decodeSnapshot_registers c f d).mode, Wire.mode, extract_single, BitVec.toNat_ofNat, slice]
  omega

/-- An extraction is a function of the bytes its segments name. -/
theorem extract_congr_read {f g : Memory} {segs : List Seg} (h : ∀ sg ∈ segs, f.read sg.byte = g.read sg.byte) :
    extract f segs = extract g segs := by
  induction segs with
  | nil => rfl
  | cons sg rest ih =>
    rw [extract, extract, h sg List.mem_cons_self, ih fun sg' hsg => h sg' (List.mem_cons_of_mem _ hsg)]

/-- Settles O58: LOADRX puts the frame in RX, VALIDATE passes it, and DECODE commits its snapshot. -/
theorem receiveFlowMakesTheSnapshotValid : Obligations.ReceiveFlowMakesTheSnapshotValid := by
  intro m n s hf hn htype
  have hcap : n ≤ 64 := by
    have h1 := hf.length
    have h2 := hf.bound
    omega
  obtain ⟨l, hload, hlen, hread, htx, htxlen, -⟩ := runAll_loadrx m hcap s
  have hval := exec_validate_of_wellFramed (s := l) (hlen.symm ▸ hf.congr hread)
  have hready : DecodeReady ((l.withRxok true).finish .ok (BitVec.ofNat 16 l.rxlen.val)) :=
    ⟨rfl, hn.trans hlen.ge, (hread 3 (by omega)).symm ▸ htype⟩
  obtain ⟨unrec, quiet3, hdec⟩ := exec_decode_of_decodeReady hready
  have hrun := (runAll_append hload).trans ((runAll_cons hval).trans (runAll_cons (is := []) hdec))
  refine ⟨_, hrun, (decodeSnapshot_registers _ _ _).valid, rfl, rfl, hlen, ?isOn, ?mode, fun g hg => ?mapped, htx,
    htxlen⟩
  case isOn => exact (decodeSnapshot_isOn_toNat _ _ _).trans (by simp [hread 8 (by omega)])
  case mode => exact (decodeSnapshot_mode_toNat _ _ _).trans (by simp [hread 8 (by omega)])
  case mapped =>
    refine (decodeSnapshot_mapped _ _ _ hg).trans (extract_congr_read fun sg hsg => hread sg.byte ?_)
    have := Config.machine.mapped_seg hg hsg
    omega

/-! #### Staging and wrapping a payload -/

/-- TXPUT inside the buffer (R138). -/
theorem exec_txput_of_lt {s : State} {index : Byte} (byte : Byte) (h : index.toNat < 64) :
    exec (.txput index byte) s = succeed (s.withTx (s.tx.write index.toNat byte) 0) 0 := if_neg (not_le.2 h)

/-- TXPUT after TXPUT stages the bytes as long as they fit, and touches neither the receive side nor the snapshot. -/
theorem runAll_stagePayload (payload : List Byte) {i : Nat} (h : i + payload.length ≤ 64) (s : State) :
    ∃ u, runAll (stagePayload i payload) s = .next u ∧ u.tx = s.tx.writeBytes i payload
      ∧ u.rx = s.rx ∧ u.rxlen = s.rxlen ∧ u.rxok = s.rxok ∧ u.ds = s.ds := by
  induction payload generalizing i s with
  | nil => exact ⟨s, rfl, rfl, rfl, rfl, rfl, rfl⟩
  | cons p rest ih =>
    rw [List.length_cons] at h
    have hi : (BitVec.ofNat 8 i).toNat = i := Nat.mod_eq_of_lt (by omega)
    have hp := exec_txput_of_lt (s := s) (index := BitVec.ofNat 8 i) p (by omega)
    rw [hi] at hp
    obtain ⟨u, hu, hkeep⟩ := ih (i := i + 1) (by omega) ((s.withTx (s.tx.write i p) 0).finish .ok 0)
    exact ⟨u, (runAll_cons hp).trans hu, hkeep⟩

/-- WRAP of a payload that fits (R160). -/
theorem exec_wrap_of_le {s : State} (type : Byte) {len : Byte} (h : len.toNat ≤ 58) :
    ∃ n : Fin 65, n.val = len.toNat + 5 ∧
      exec (.wrap type len) s = succeed (s.withTx (sealFrame (writeHeader s.tx (len + 2) type) n.val) n)
        (BitVec.ofNat 16 n.val) :=
  ⟨⟨len.toNat + 5, by omega⟩, rfl, dif_pos h⟩

/-- Between its header and its checksum a wrapped frame holds what was staged (R160). -/
theorem read_wrap_payload (m : Memory) (len type : Byte) {n a : Nat} (h4 : 4 ≤ a) (hn : a < n - 1) :
    (sealFrame (writeHeader m len type) n).read a = m.read a := by
  rw [read_sealFrame, if_neg (by omega), read_writeHeader, if_neg (by omega), if_neg (by omega), if_neg (by omega)]

/-- Settles O59: TXCLR and the TXPUTs stage the payload from TX[4] on, and WRAP frames it in place. -/
theorem sendFlowOffersThePayloadFramed : Obligations.SendFlowOffersThePayloadFramed := by
  intro type payload s _ hlen
  have hp : (BitVec.ofNat 8 payload.length).toNat = payload.length := Nat.mod_eq_of_lt (by omega)
  have hfit : (BitVec.ofNat 8 payload.length).toNat ≤ 58 := hp.trans_le hlen
  have hclr : exec .txclr s = .next ((s.withTx Memory.zero 0).finish .ok 0) := rfl
  obtain ⟨u, hstage, htx, hrx, hrxlen, hrxok, hds⟩ :=
    runAll_stagePayload payload (i := 4) (by omega) ((s.withTx Memory.zero 0).finish .ok 0)
  obtain ⟨n, hn, hwrap⟩ := exec_wrap_of_le (s := u) type hfit
  have hrun := (runAll_append ((runAll_cons hclr).trans hstage)).trans (runAll_cons (is := []) hwrap)
  have hframe := wellFramed_wrap u.tx type hfit hn
  rw [hp] at hn
  refine ⟨_, hrun, rfl, hn, hn ▸ hframe, ?type, fun k hk => ?payload, hrx, hrxlen, hrxok, hds⟩
  case type =>
    rw [State.finish_tx, State.withTx_tx, read_sealFrame, if_neg (by omega), read_writeHeader, if_pos rfl]
  case payload =>
    rw [State.finish_tx, State.withTx_tx, read_wrap_payload _ _ _ (by omega) (by omega), htx]
    exact Memory.read_writeBytes _ 4 payload hk

end Sys2Proof.Machine

/-! ### Buffer access -/

namespace Sys2Proof.Machine

/-! #### What each command answers, by its guard -/

/-- RXPUSH onto a full RX (R134). -/
theorem exec_rxpush_of_full {s : State} (byte : Byte) (h : s.rxlen.val = 64) :
    exec (.rxpush byte) s = raise s .bufferOverflow := dif_neg h.not_lt

/-- RXRD below RXLEN (R135). -/
theorem exec_rxrd_of_lt {s : State} {index : Byte} (h : index.toNat < s.rxlen.val) :
    exec (.rxrd index) s = succeed s ((s.rx.read index.toNat).setWidth 16) := if_neg h.not_ge

/-- RXRD at or above RXLEN (R135). -/
theorem exec_rxrd_of_ge {s : State} {index : Byte} (h : s.rxlen.val ≤ index.toNat) :
    exec (.rxrd index) s = raise s .badOperand := if_pos h

/-- TXPUT outside the buffer (R138). -/
theorem exec_txput_of_ge {index : Byte} (byte : Byte) (s : State) (h : 64 ≤ index.toNat) :
    exec (.txput index byte) s = raise s .badOperand := if_pos h

/-- TXRD below TXLEN (R139). -/
theorem exec_txrd_of_lt {s : State} {index : Byte} (h : index.toNat < s.txlen.val) :
    exec (.txrd index) s = succeed s ((s.tx.read index.toNat).setWidth 16) := if_neg h.not_ge

/-- TXRD at or above TXLEN (R139). -/
theorem exec_txrd_of_ge {s : State} {index : Byte} (h : s.txlen.val ≤ index.toNat) :
    exec (.txrd index) s = raise s .badOperand := if_pos h

/-! #### The obligations -/

/-- Settles O13: below 64 bytes the answer is `pushed` with the new RXLEN as RESULT, which fits in 16 bits. -/
theorem rxpushAppendsOneByteOrOverflows : Obligations.RxpushAppendsOneByteOrOverflows := by
  intro s byte
  refine ⟨fun h => ?below, fun h => exec_rxpush_of_full byte h⟩
  case below =>
    have hresult : (BitVec.ofNat 16 (s.rxlen.val + 1)).toNat = s.rxlen.val + 1 := Nat.mod_eq_of_lt (by omega)
    exact ⟨_, exec_rxpush_of_lt byte h, s.rx.read_write s.rxlen.val byte, rfl, hresult, rfl⟩

/-- Settles O11: NOP is `ok(0)` at the state as it stands. -/
theorem nopOnlyClearsErrAndResult : Obligations.NopOnlyClearsErrAndResult := fun _ => succeed_next.2 rfl

/-- Settles O12: RXCLR puts the zero buffer in RX, and every byte of it reads 0. -/
theorem rxclrEmptiesTheReceiveBuffer : Obligations.RxclrEmptiesTheReceiveBuffer := fun _ =>
  ⟨_, succeed_next.2 rfl, Memory.read_zero, rfl, rfl⟩

/-- Settles O14: RESULT is a byte of RX, which widening to 16 bits keeps. -/
theorem rxrdReadsBelowRxlen : Obligations.RxrdReadsBelowRxlen := fun _ _ =>
  ⟨fun h => ⟨_, exec_rxrd_of_lt h, toNat_setWidth_of_le (by decide) _, rfl⟩, exec_rxrd_of_ge⟩

/-- Settles O15: TXCLR puts the zero buffer in TX, and every byte of it reads 0. -/
theorem txclrEmptiesTheTransmitBuffer : Obligations.TxclrEmptiesTheTransmitBuffer := fun _ =>
  ⟨_, succeed_next.2 rfl, Memory.read_zero, rfl, rfl⟩

/-- Settles O16: below 64 the answer writes the one byte of TX and withdraws the frame. -/
theorem txputStagesOneByte : Obligations.TxputStagesOneByte := fun s index byte =>
  ⟨fun h => ⟨_, exec_txput_of_lt byte h, s.tx.read_write index.toNat byte, rfl⟩, exec_txput_of_ge byte s⟩

/-- Settles O17: RESULT is a byte of TX, which widening to 16 bits keeps. -/
theorem txrdReadsTheOfferedFrame : Obligations.TxrdReadsTheOfferedFrame := fun _ _ =>
  ⟨fun h => ⟨_, exec_txrd_of_lt h, toNat_setWidth_of_le (by decide) _, rfl⟩, exec_txrd_of_ge⟩

end Sys2Proof.Machine

/-! ### The frame layer -/

namespace Sys2Proof.Machine

/-- A length, 0..64, fits in RESULT (R28, R29). -/
theorem toNat_ofNat_length (n : Fin 65) : (BitVec.ofNat 16 n.val).toNat = n.val :=
  Nat.mod_eq_of_lt (n.isLt.trans (by decide))

/-- The first three bytes of a buffer pass R152's check. -/
def GoodHeader (m : Memory) : Prop := m.read 0 = 0x7E#8 ∧ m.read 1 = 0x7E#8 ∧ (m.read 2).toNat ≤ 60

theorem hdrOk_of_good {m : Memory} (h : GoodHeader m) : hdrOk (m.read 0) (m.read 1) (m.read 2) = true :=
  (hdrOk_iff _ _ _).2 h

theorem hdrOk_of_bad {m : Memory} (h : ¬ GoodHeader m) : hdrOk (m.read 0) (m.read 1) (m.read 2) = false :=
  Bool.eq_false_iff.2 fun hok => h ((hdrOk_iff _ _ _).1 hok)

/-! #### What CKSUM and HDRCHK answer, by their guards -/

/-- CKSUM with at least four bytes in RX (R151). -/
theorem exec_cksum_of_ge {s : State} (h : 4 ≤ s.rxlen.val) :
    exec .cksum s = succeed s ((frameSum s.rx s.rxlen.val).setWidth 16) := by
  simp [exec, execCksum, checksum, h.not_gt]

/-- CKSUM below four bytes (R150). -/
theorem exec_cksum_of_lt {s : State} (h : s.rxlen.val < 4) : exec .cksum s = raise s .shortBuffer := by
  simp [exec, execCksum, checksum, h]

/-- HDRCHK below three bytes (R153). -/
theorem exec_hdrchk_of_lt {s : State} (h : s.rxlen.val < 3) : exec .hdrchk s = raise s .shortBuffer := if_pos h

/-- HDRCHK over a bad header (R153). -/
theorem exec_hdrchk_of_bad {s : State} (h : 3 ≤ s.rxlen.val) (hbad : ¬ GoodHeader s.rx) :
    exec .hdrchk s = raise s .malformedHeader := by
  simp [exec, execHdrchk, h.not_gt, hdrOk_of_bad hbad]

/-- HDRCHK over a good header (R153). -/
theorem exec_hdrchk_of_good {s : State} (h : 3 ≤ s.rxlen.val) (hgood : GoodHeader s.rx) :
    exec .hdrchk s = succeed s ((s.rx.read 2).setWidth 16) := by
  simp [exec, execHdrchk, h.not_gt, hdrOk_of_good hgood]

/-- Settles O18: the machine's checksum is R150's sum, and widening it to 16 bits keeps it. -/
theorem cksumSumsFromTheLengthByte : Obligations.CksumSumsFromTheLengthByte := fun _ =>
  ⟨fun h => ⟨_, exec_cksum_of_ge h, (toNat_setWidth_of_le (by decide) _).trans (frameSum_toNat _ h), rfl⟩,
    exec_cksum_of_lt⟩

/-- Settles O19: RESULT is a byte of RX, which widening to 16 bits keeps. -/
theorem hdrchkReportsTheLengthByte : Obligations.HdrchkReportsTheLengthByte := fun _ =>
  ⟨fun h hgood => ⟨_, exec_hdrchk_of_good h hgood, toNat_setWidth_of_le (by decide) _, rfl⟩,
    exec_hdrchk_of_bad, exec_hdrchk_of_lt⟩

/-! #### VALIDATE's checks, one by one -/

section

variable {m : Memory} {n : Nat}

theorem validateError_of_lt (h : n < 3) : validateError m n = some .shortBuffer := if_pos h

theorem validateError_of_bad_header (h : 3 ≤ n) (hbad : ¬ GoodHeader m) :
    validateError m n = some .malformedHeader := by
  simp [validateError, h.not_gt, hdrOk_of_bad hbad]

theorem validateError_of_other_length (h : 3 ≤ n) (hgood : GoodHeader m) (hn : n ≠ 3 + (m.read 2).toNat) :
    validateError m n = some .lengthMismatch := by
  simp [validateError, h.not_gt, hdrOk_of_good hgood, hn]

theorem validateError_of_empty_payload (h : n = 3) (hgood : GoodHeader m) (hn : n = 3 + (m.read 2).toNat) :
    validateError m n = some .shortBuffer := by
  simp [validateError, checksum, hdrOk_of_good hgood, ← hn, h]

theorem validateError_of_other_sum (h : 4 ≤ n) (hgood : GoodHeader m) (hn : n = 3 + (m.read 2).toNat)
    (hsum : (m.read (n - 1)).toNat ≠ byteSum m n) : validateError m n = some .checksumMismatch := by
  have h3 : ¬ n < 3 := by omega
  have hne : frameSum m n ≠ m.read (n - 1) := fun he => hsum (he ▸ frameSum_toNat m h)
  simp [validateError, checksum, hdrOk_of_good hgood, h3, ← hn, h.not_gt, hne]

end

/-- A check that fails is what VALIDATE raises, with RXOK cleared (R155). -/
theorem exec_validate_of_error {s : State} {e : ErrCode} (h : validateError s.rx s.rxlen.val = some e) :
    exec .validate s = raise (s.withRxok false) e := by
  simp [exec, execValidate, h]

/-- Settles O20: each failing case is the check of that name, and a frame that fails none of them is well formed. -/
theorem validateReportsTheFirstFailedCheck : Obligations.ValidateReportsTheFirstFailedCheck := by
  intro s
  refine ⟨fun h => exec_validate_of_error (validateError_of_lt h),
    fun h hbad => exec_validate_of_error (validateError_of_bad_header h hbad),
    fun h hgood hn => exec_validate_of_error (validateError_of_other_length h hgood hn),
    fun h hgood hn => exec_validate_of_error (validateError_of_empty_payload h hgood hn),
    fun h hgood hn hsum => exec_validate_of_error (validateError_of_other_sum h hgood hn hsum), ?passes⟩
  case passes =>
    intro h ⟨h0, h1, hbound⟩ hn hsum
    exact ⟨_, exec_validate_of_wellFramed ⟨h0, h1, hbound, hn, h, hsum⟩, toNat_ofNat_length _, rfl⟩

/-! #### One changed byte -/

/-- Changing one summed byte changes the sum mod 256, since two bytes differ by less than 256. -/
theorem byteSum_ne_of_one_changed {m m' : Memory} {n k : Nat} (h2 : 2 ≤ k) (hk : k < n - 1)
    (hne : m'.read k ≠ m.read k) (heq : ∀ a, a < n → a ≠ k → m'.read a = m.read a) :
    byteSum m' n ≠ byteSum m n := by
  have hmem : k ∈ Finset.Ico 2 (n - 1) := Finset.mem_Ico.2 ⟨h2, hk⟩
  have hrest : ∑ i ∈ (Finset.Ico 2 (n - 1)).erase k, (m'.read i).toNat =
      ∑ i ∈ (Finset.Ico 2 (n - 1)).erase k, (m.read i).toNat := by
    refine Finset.sum_congr rfl fun i hi => ?_
    obtain ⟨hik, hi⟩ := Finset.mem_erase.1 hi
    have := (Finset.mem_Ico.1 hi).2
    rw [heq i (by omega) hik]
  have hbyte : (m'.read k).toNat ≠ (m.read k).toNat := fun h => hne (BitVec.eq_of_toNat_eq h)
  have hlt := (m.read k).isLt
  have hlt' := (m'.read k).isLt
  unfold byteSum
  rw [← Finset.add_sum_erase _ _ hmem, ← Finset.add_sum_erase _ (fun i => (m.read i).toNat) hmem, hrest]
  omega

/-- With one byte from the length byte on changed, the last byte of a frame is not the sum of the others. -/
theorem WellFramed.sum_ne_of_one_changed {m m' : Memory} {n k : Nat} (hf : WellFramed m n) (h2 : 2 ≤ k) (hk : k < n)
    (hne : m'.read k ≠ m.read k) (heq : ∀ a, a < n → a ≠ k → m'.read a = m.read a) :
    (m'.read (n - 1)).toNat ≠ byteSum m' n := by
  by_cases hlast : k = n - 1
  · rw [byteSum_congr fun a _ ha => heq a (by omega) (by omega), ← hf.sum, ← hlast]
    exact fun h => hne (BitVec.eq_of_toNat_eq h)
  · rw [heq (n - 1) (by omega) (Ne.symm hlast), hf.sum]
    exact (byteSum_ne_of_one_changed h2 (by omega) hne heq).symm

/-- The check that a frame with byte `k` changed fails, by the place of the byte (R161). -/
theorem validateError_of_one_changed {m m' : Memory} {n k : Nat} (hf : WellFramed m n) (hk : k < n)
    (hne : m'.read k ≠ m.read k) (heq : ∀ a, a < n → a ≠ k → m'.read a = m.read a) :
    ∃ e, validateError m' n = some e ∧ (k < 2 → e = .malformedHeader)
      ∧ (k = 2 → e = .malformedHeader ∨ e = .lengthMismatch) ∧ (3 ≤ k → e = .checksumMismatch) := by
  have ⟨h0, h1, hbound, hlen, h4, _⟩ := hf
  have h3 : 3 ≤ n := by omega
  rcases lt_trichotomy k 2 with hk2 | rfl | hk2
  · have hbad : ¬ GoodHeader m' := by
      rintro ⟨h0', h1', -⟩
      obtain rfl | rfl : k = 0 ∨ k = 1 := by omega
      · exact hne (h0'.trans h0.symm)
      · exact hne (h1'.trans h1.symm)
    exact ⟨_, validateError_of_bad_header h3 hbad, fun _ => rfl, fun _ => .inl rfl, fun _ => by omega⟩
  · by_cases hgood : GoodHeader m'
    · have hn : n ≠ 3 + (m'.read 2).toNat := fun h => hne (BitVec.eq_of_toNat_eq (by omega))
      exact ⟨_, validateError_of_other_length h3 hgood hn, fun _ => by omega, fun _ => .inr rfl, fun _ => by omega⟩
    · exact ⟨_, validateError_of_bad_header h3 hgood, fun _ => rfl, fun _ => .inl rfl, fun _ => by omega⟩
  · have hhead : ∀ a, a < 3 → m'.read a = m.read a := fun a ha => heq a (by omega) (by omega)
    have hgood : GoodHeader m' := ⟨(hhead 0 (by decide)).trans h0, (hhead 1 (by decide)).trans h1,
      (hhead 2 (by decide)).symm ▸ hbound⟩
    have hsum := hf.sum_ne_of_one_changed hk2.le hk hne heq
    exact ⟨_, validateError_of_other_sum h4 hgood ((hhead 2 (by decide)).symm ▸ hlen) hsum, fun _ => by omega,
      fun _ => by omega, fun _ => rfl⟩

/-- Settles O24: the changed byte fails one of the checks, and VALIDATE raises that check's error. -/
theorem oneChangedByteFailsValidate : Obligations.OneChangedByteFailsValidate := by
  rintro m n k b s hf hk hb rfl hread
  have hne : s.rx.read k ≠ m.read k := by rwa [hread k hk, if_pos rfl]
  have heq : ∀ a, a < s.rxlen.val → a ≠ k → s.rx.read a = m.read a := fun a ha hak => by
    rw [hread a ha, if_neg hak]
  obtain ⟨e, he, hplace⟩ := validateError_of_one_changed hf hk hne heq
  exact ⟨_, exec_validate_of_error he, rfl, hplace⟩

/-! #### WRAP and QUERY -/

/-- WRAP of a payload that does not fit (R160). -/
theorem exec_wrap_of_gt {len : Byte} (type : Byte) (s : State) (h : 58 < len.toNat) :
    exec (.wrap type len) s = raise s .bufferOverflow := dif_neg h.not_ge

/-- Settles O21: the wrapped bytes are a frame, which gives the sync, length and checksum bytes; the other bytes are the
type's and the staged ones. -/
theorem wrapFramesTheStagedPayload : Obligations.WrapFramesTheStagedPayload := by
  intro s type len
  refine ⟨fun h => ?fits, exec_wrap_of_gt type s⟩
  case fits =>
    obtain ⟨n, hn, hwrap⟩ := exec_wrap_of_le (s := s) type h
    have hframe := wellFramed_wrap s.tx type h hn
    have hlength := hframe.length
    have hsum := hframe.sum
    rw [hn, Nat.add_sub_cancel (len.toNat + 4) 1] at hsum
    refine ⟨_, hwrap, hframe.sync0, hframe.sync1, ?length, ?type, fun a h4 ha => ?kept, ?sum, hn,
      (toNat_ofNat_length n).trans hn, rfl⟩
    case length =>
      rw [State.finish_tx, State.withTx_tx]
      omega
    case type =>
      rw [State.finish_tx, State.withTx_tx, read_sealFrame, if_neg (by omega), read_writeHeader, if_pos rfl]
    case kept =>
      rw [State.finish_tx, State.withTx_tx, read_sealFrame, if_neg (by omega), read_writeHeader, if_neg (by omega),
        if_neg (by omega), if_neg (by omega)]
    case sum =>
      rw [State.finish_tx, State.withTx_tx, hn]
      exact hsum

/-- The bytes of TX after QUERY (R163). -/
theorem read_query (m : Memory) (a : Nat) :
    ((writeHeader m 0x02#8 typeQuery).write 4 0x04#8).read a =
      if a = 0 ∨ a = 1 then 0x7E#8 else if a = 2 ∨ a = 3 then 0x02#8 else if a = 4 then 0x04#8 else m.read a := by
  match a with
  | 0 | 1 | 2 | 3 | 4 => simp [Memory.read_write, read_writeHeader]
  | a + 5 => simp [Memory.read_write, read_writeHeader]

/-- Settles O22: QUERY's last byte is the checksum of its others, so WRAP of no payload seals the same bytes. -/
theorem queryBuildsTheFiveByteFrame : Obligations.QueryBuildsTheFiveByteFrame := by
  intro s
  obtain ⟨n, hn, hwrap⟩ := exec_wrap_of_le (s := s) 0x02#8 (len := 0x00#8) (by decide)
  refine ⟨_, succeed_next.2 rfl, read_query s.tx, rfl, rfl, rfl, _, hwrap, fun a => ?_⟩
  rw [State.finish_tx, State.finish_tx, State.withTx_tx, State.withTx_tx, query_eq_sealFrame, hn]
  rfl

/-! #### Produced frames -/

/-- A command that produces a frame and ends without an error offers a well-formed one (R161). -/
theorem Effect.offers_frame {i : Instr} {s u : State} (h : Effect i s u .ok) (hp : ProducesFrame i) :
    WellFramed u.tx u.txlen.val := by
  cases h with
  | wrap type len n hlen hn => exact wellFramed_wrap s.tx type hlen hn
  | query => exact wellFramed_query _
  | encode latch =>
    rw [State.withTx_tx, State.withTx_txlen]
    exact wellFramed_commandFrame _ _ _
  | encrt =>
    rw [State.withTx_tx, State.withTx_txlen]
    exact wellFramed_remoteTempFrame _ _
  | fail _ _ _ he => exact absurd rfl he
  | read hr => obtain ⟨_, _, rfl⟩ | rfl | ⟨_, rfl⟩ | rfl := hp <;> exact hr.elim
  | _ => simp [ProducesFrame] at hp

/-- Settles O23: the produced frame is well formed, LOADRX puts its bytes in RX, and VALIDATE passes a well-formed
frame. -/
theorem producedFramesValidateWhenPushedBack : Obligations.ProducedFramesValidateWhenPushedBack := by
  intro i s t hp ht hok r
  obtain ⟨u, e, v, rfl, -, he⟩ := exec_cases ht
  obtain rfl : e = .ok := hok
  have hf := he.offers_frame hp
  obtain ⟨l, hload, hlen, hread, -, -, hds⟩ := runAll_loadrx u.tx (Nat.le_of_lt_succ u.txlen.isLt) r
  have hval := exec_validate_of_wellFramed (s := l) (hlen.symm ▸ hf.congr hread)
  exact ⟨_, (runAll_append hload).trans (runAll_cons (is := []) hval), rfl, rfl, hlen,
    (toNat_ofNat_length l.rxlen).trans hlen, hread, hds⟩

/-! #### The writers of RXOK -/

/-- What a command does to RXOK: it is kept, set by a passing VALIDATE, or cleared by one of its writers (R29, R158). -/
theorem Effect.rxok {i : Instr} {s u : State} {e : ErrCode} (h : Effect i s u e) :
    u.rxok = s.rxok ∨ (i = .validate ∧ e = .ok ∧ WellFramed s.rx s.rxlen.val ∧ u.rxok = true)
      ∨ (((i = .validate ∧ ¬ WellFramed s.rx s.rxlen.val) ∨ i = .rxclr ∨ (∃ b, i = .rxpush b) ∨ i = .srst)
        ∧ u.rxok = false) := by
  cases h with
  | validates hv => exact .inr (.inl ⟨rfl, rfl, wellFramed_of_validateError hv, rfl⟩)
  | rejects hv =>
    refine .inr (.inr ⟨.inl ⟨rfl, fun hf => ?_⟩, rfl⟩)
    exact nomatch (validateError_of_wellFramed hf).symm.trans hv
  | rxclr => exact .inr (.inr ⟨.inr (.inl rfl), rfl⟩)
  | rxpush byte => exact .inr (.inr ⟨.inr (.inr (.inl ⟨byte, rfl⟩)), rfl⟩)
  | srst => exact .inr (.inr ⟨.inr (.inr (.inr rfl)), rfl⟩)
  | _ => exact .inl (by simp)

/-- A failed VALIDATE leaves RXOK clear (R155). -/
theorem Effect.rxok_of_failed_validate {s u : State} {e : ErrCode} (h : Effect .validate s u e) (he : e ≠ .ok) :
    u.rxok = false := by
  cases h with
  | validates => exact absurd rfl he
  | rejects => rfl
  | fail hv => exact absurd rfl hv
  | read hr => exact hr.elim

/-- A byte appended to RX leaves RXOK clear (R134). -/
theorem Effect.rxok_of_rxpush {s u : State} {byte : Byte} (h : Effect (.rxpush byte) s u .ok) : u.rxok = false := by
  cases h with
  | rxpush => rfl
  | fail _ _ _ he => exact absurd rfl he
  | read hr => exact hr.elim

/-- Settles O56: RXOK changes only by one of its writers, and each of them that succeeds, or fails in VALIDATE, clears
it. -/
theorem rxokIsSetOnlyByPassingValidate : Obligations.RxokIsSetOnlyByPassingValidate := by
  intro i s t ht
  obtain ⟨u, e, v, rfl, -, he⟩ := exec_cases ht
  refine ⟨fun hs hu => ?set, fun hs hu => ?cleared, ?after⟩
  case set =>
    obtain h | ⟨hi, -, hf, -⟩ | ⟨-, h⟩ := he.rxok
    · exact nomatch (h.trans hs).symm.trans hu
    · exact ⟨hi, hf⟩
    · exact nomatch h.symm.trans hu
  case cleared =>
    obtain h | ⟨-, -, -, h⟩ | ⟨hi, -⟩ := he.rxok
    · exact nomatch (h.trans hs).symm.trans hu
    · exact nomatch h.symm.trans hu
    · exact hi
  case after =>
    rintro (rfl | rfl | ⟨rfl, hfail⟩ | ⟨⟨b, rfl⟩, hok⟩)
    · exact (succeed_next.1 ht) ▸ rfl
    · exact (succeed_next.1 ht) ▸ rfl
    · exact he.rxok_of_failed_validate hfail
    · obtain rfl : e = .ok := hok
      exact he.rxok_of_rxpush

end Sys2Proof.Machine

/-! ### Field access -/

namespace Sys2Proof.Machine

/-! #### What RDF and WRF answer for an id -/

/-- RDF of a register's own id (R180). -/
theorem exec_rdf_id (f : Field) (s : State) : exec (.rdf f.id) s = succeed s (s.ds.get f) := by
  rw [exec, execRdf, fieldOfId?_id]

/-- RDF of an undefined id (R180). -/
theorem exec_rdf_of_undefined {a : Byte} (h : 0x38 ≤ a.toNat) (s : State) :
    exec (.rdf a) s = raise s .badOperand := by
  rw [exec, execRdf, fieldOfId?_none a h]

/-- WRF of a register's own id is decided by the register's domain (R182). -/
theorem exec_wrf_id (f : Field) (value : Half) (s : State) :
    exec (.wrf f.id value) s =
      if inDomain Config.machine f value then succeed (s.withDs (s.ds.set f value)) 0 else raise s .badOperand := by
  rw [exec, execWrf, writeField, fieldOfId?_id]

/-- WRF of an undefined id (R182). -/
theorem exec_wrf_of_undefined {a : Byte} (h : 0x38 ≤ a.toNat) (value : Half) (s : State) :
    exec (.wrf a value) s = raise s .badOperand := by
  rw [exec, execWrf, writeField, fieldOfId?_none a h]

/-! #### The table of the field registers and the reset values -/

/-- R24's table holds each register once, under its id, with the value it reads as. -/
theorem fieldTable_eq_map (d : DeviceState) :
    fieldTable d = Field.all.map fun f => (f.id, (d.get f).toNat) := by
  simp [fieldTable, Field.all, Field.customSleepCurves, Field.id, DeviceState.get, toNat_setWidth_of_le,
    -BitVec.toNat_setWidth]

/-- The registers read as R320's values after reset. -/
theorem toNat_get_reset (f : Field) : (DeviceState.reset.get f).toNat = resetValue f := by
  cases f with
  | customSleepCurve k => revert k; decide
  | _ => rfl

/-- STATUS after reset is 0x00 (R320). -/
theorem status_reset : State.reset.status = 0x00#8 := by decide

/-! #### The obligations -/

/-- Settles O25: a row of the table is a register's id beside its value, which is what RDF of that id answers. -/
theorem rdfReadsTheRegisterOfItsId : Obligations.RdfReadsTheRegisterOfItsId := by
  refine fun s => ⟨fun p hp => ?_, fun a h => exec_rdf_of_undefined h s⟩
  rw [fieldTable_eq_map] at hp
  obtain ⟨f, -, rfl⟩ := List.mem_map.1 hp
  exact ⟨_, exec_rdf_id f s, rfl, rfl⟩

/-- Settles O26: an accepted value is written to the one register, which holds it whole; VALID accepts no value. -/
theorem wrfWritesOnlyTheNamedRegister : Obligations.WrfWritesOnlyTheNamedRegister := by
  refine fun s value => ⟨fun f _ hd => ?accepted, fun f hf => ?refused, fun a h => exec_wrf_of_undefined h value s⟩
  case accepted =>
    have hget := get_set_of_inDomain hd s.ds
    exact ⟨_, (exec_wrf_id f value s).trans (if_pos hd), (hget f).trans (if_pos rfl),
      fun g hg => (hget g).trans (if_neg hg), rfl⟩
  case refused =>
    have hd : inDomain Config.machine f value = false := by
      obtain rfl | hd := hf
      · exact inDomain_valid _ value
      · exact hd
    exact (exec_wrf_id f value s).trans (if_neg (by simp [hd]))

/-- Settles O8: SRST answers `ok(0)` at the reset state of every register, with the words still to come kept. -/
theorem srstRestoresEveryResetValue : Obligations.SrstRestoresEveryResetValue := fun _ =>
  ⟨_, succeed_next.2 rfl, Memory.read_zero, rfl, rfl, Memory.read_zero, rfl, toNat_get_reset, rfl, rfl, rfl,
    status_reset, rfl, rfl, rfl⟩

end Sys2Proof.Machine

/-! ### DECODE -/

namespace Sys2Proof.Machine

/-! #### What DECODE answers, by its preconditions -/

/-- A precondition that fails is what DECODE raises (R201). -/
theorem exec_decode_of_error {s : State} {e : ErrCode} (h : decodeError s = some e) :
    exec .decode s = raise s e := by
  obtain ⟨e', he, hd⟩ | ⟨hn, -⟩ := decodeFrame_cases Config.machine s
  · obtain rfl : e' = e := Option.some.inj (he.symm.trans h)
    exact hd
  · exact nomatch hn.symm.trans h

theorem decodeError_of_unvalidated {s : State} (h : s.rxok = false) : decodeError s = some .unvalidatedFrame := by
  simp [decodeError, h]

theorem decodeError_of_truncated {s : State} (hok : s.rxok = true) (h : s.rxlen.val < 51) :
    decodeError s = some .truncatedFrame := by
  simp [decodeError, hok, h]

theorem decodeError_of_other_type {s : State} (hok : s.rxok = true) (hlen : 51 ≤ s.rxlen.val)
    (hA : s.rx.read 3 ≠ 0x31#8) (hB : s.rx.read 3 ≠ 0x32#8) : decodeError s = some .unexpectedFrameType := by
  simp [decodeError, hok, hlen.not_gt, hA, hB]

/-- The snapshot DECODE makes of the frame in RX and the snapshot before it. -/
def newSnapshot (s : State) : DeviceState := decodeSnapshot Config.machine s.rx s.ds

/-- The state after a DECODE that passes its preconditions (R212). -/
def decoded (s : State) : State :=
  ((s.withDs (newSnapshot s)).withWarnings (warnsUnrec (newSnapshot s)) (warnsQuiet3 (newSnapshot s))).finish .ok 0

@[simp] theorem decoded_ds (s : State) : (decoded s).ds = newSnapshot s := rfl
@[simp] theorem decoded_warnUnrec (s : State) : (decoded s).warnUnrec = warnsUnrec (newSnapshot s) := rfl
@[simp] theorem decoded_warnQuiet3 (s : State) : (decoded s).warnQuiet3 = warnsQuiet3 (newSnapshot s) := rfl

/-- With its preconditions met DECODE commits the new snapshot and its warnings (R212). -/
theorem exec_decode_eq_decoded {s : State} (h : DecodeReady s) : exec .decode s = .next (decoded s) := by
  obtain ⟨e, he, -⟩ | ⟨-, hd⟩ := decodeFrame_cases Config.machine s
  · exact nomatch he.symm.trans (decodeError_of_decodeReady h)
  · exact hd

theorem newSnapshot_registers (s : State) : DecodedRegisters Config.machine s.rx s.ds (newSnapshot s) :=
  decodeSnapshot_registers _ _ _

/-- Settles O28: each clause is the check of that name. -/
theorem decodeReportsTheFirstFailedPrecondition : Obligations.DecodeReportsTheFirstFailedPrecondition := fun _ =>
  ⟨fun h => exec_decode_of_error (decodeError_of_unvalidated h),
    fun hok h => exec_decode_of_error (decodeError_of_truncated hok h),
    fun hok hlen hA hB => exec_decode_of_error (decodeError_of_other_type hok hlen hA hB)⟩

/-- Settles O34: the new snapshot's FIELD_MAP registers are wide enough for their extractions. -/
theorem decodeExtractsEveryMappedField : Obligations.DecodeExtractsEveryMappedField := fun s h =>
  ⟨_, exec_decode_eq_decoded h, fun _ hg => decodeSnapshot_mapped _ s.rx s.ds hg⟩

/-! #### Extractions as numbers -/

/-- A register at least as wide as a segment list holds its extraction whole. -/
theorem toNat_ofNat_extract {n : Nat} (f : Memory) (segs : List Seg) (h : segsWidth segs ≤ n) :
    (BitVec.ofNat n (extract f segs)).toNat = extract f segs :=
  BitVec.toNat_ofNat _ _ ▸ Nat.mod_eq_of_lt ((extract_lt f segs).trans_le (Nat.pow_le_pow_right (by decide) h))

/-- The extraction of one bit. -/
theorem extract_bit (f : Memory) (byte k : Nat) : extract f [⟨byte, k, k⟩] = (f.read byte).toNat / 2 ^ k % 2 := by
  rw [extract_single, slice, Nat.add_sub_cancel_left, Nat.pow_one]

theorem extract_bit_eq_one_iff (f : Memory) (byte k : Nat) :
    extract f [⟨byte, k, k⟩] = 1 ↔ (f.read byte).getLsbD k = true := by
  rw [extract_bit, BitVec.getLsbD, Nat.testBit_eq_decide_div_mod_eq, decide_eq_true_iff]

/-- The extraction of a whole byte. -/
theorem extract_byte (f : Memory) (byte : Nat) : extract f [⟨byte, 7, 0⟩] = (f.read byte).toNat := by
  have := (f.read byte).isLt
  rw [extract_single, slice]
  omega

/-- The extraction of the top bit of a byte. -/
theorem extract_topBit (f : Memory) (byte : Nat) : extract f [⟨byte, 7, 7⟩] = (f.read byte).toNat / 128 := by
  have := (f.read byte).isLt
  rw [extract_bit]
  omega

/-! #### Power, mode and temperature -/

theorem decodeTemp_celsius (u lo h : Nat) : decodeTemp 0 u lo h = 2 * min (u + 16) 30 + h := rfl

theorem decodeTemp_fahrenheit_zero (lo h : Nat) : decodeTemp 1 0 lo h = 122 := rfl

theorem decodeTemp_fahrenheit {u : Nat} (hu : u ≠ 0) (lo h : Nat) :
    decodeTemp 1 u lo h = 2 * min ((9 * u + 304) / 5 + lo) 86 := if_neg hu

/-- A decoded temperature fits its register, whatever the wire bits. -/
theorem decodeTemp_lt (units u lo : Nat) {h : Nat} (hh : h < 2) : decodeTemp units u lo h < 256 := by
  unfold decodeTemp
  split_ifs <;> omega

section

variable (c : Config) (f : Memory) (d : DeviceState)

/-- temp_units is bit 7 of byte 11 (R203). -/
theorem decodeSnapshot_tempUnits_toNat :
    (decodeSnapshot c f d).tempUnits.toNat = (f.read 11).toNat / 128 := by
  rw [(decodeSnapshot_registers c f d).tempUnits, toNat_ofNat_extract _ _ (by decide)]
  exact extract_topBit f 11

/-- temp is decode_temp of the bits R203 names. -/
theorem decodeSnapshot_temp_toNat :
    (decodeSnapshot c f d).temp.toNat = decodeTemp (decodeSnapshot c f d).tempUnits.toNat ((f.read 9).toNat / 16)
      ((f.read 11).toNat / 64 % 2) ((f.read 14).toNat / 8 % 2) := by
  have hu : extract f Wire.tempUpper = (f.read 9).toNat / 16 := by
    have := (f.read 9).isLt
    rw [Wire.tempUpper, extract_single, slice]
    omega
  have hlo : extract f Wire.tempLower = (f.read 11).toNat / 64 % 2 := extract_bit f 11 6
  have hh : extract f Wire.tempHalf = (f.read 14).toNat / 8 % 2 := extract_bit f 14 3
  have hunits : extract f Wire.tempUnits = (f.read 11).toNat / 128 := extract_topBit f 11
  rw [decodeSnapshot_tempUnits_toNat, (decodeSnapshot_registers c f d).temp, BitVec.toNat_ofNat, hu, hlo, hh, hunits]
  exact Nat.mod_eq_of_lt (decodeTemp_lt _ _ _ (Nat.mod_lt _ (by decide)))

end

/-- Settles O29: temp is decode_temp of its wire bits, and the clauses are decode_temp's cases. -/
theorem decodeReadsPowerModeAndTemperature : Obligations.DecodeReadsPowerModeAndTemperature := by
  intro s h
  have htemp := decodeSnapshot_temp_toNat Config.machine s.rx s.ds
  refine ⟨_, exec_decode_eq_decoded h, decodeSnapshot_isOn_toNat _ _ _, decodeSnapshot_mode_toNat _ _ _,
    decodeSnapshot_tempUnits_toNat _ _ _, fun h0 => ?celsius, fun h1 hu => ?zero, fun h1 hu => ?fahrenheit⟩
  case celsius =>
    exact htemp.trans (h0 ▸ decodeTemp_celsius _ _ _)
  case zero =>
    refine htemp.trans ?_
    rw [hu]
    exact h1 ▸ decodeTemp_fahrenheit_zero _ _
  case fahrenheit =>
    exact htemp.trans (h1 ▸ decodeTemp_fahrenheit hu _ _)

/-! #### X-Fan -/

/-- Settles O30: the mode that selects the X-Fan register is the decoded one. -/
theorem decodeSelectsXFanByMode : Obligations.DecodeSelectsXFanByMode := by
  intro s h
  have r := newSnapshot_registers s
  have hbit : (BitVec.ofNat 1 (extract s.rx Wire.xFan)).toNat = (s.rx.read 10).toNat / 8 % 2 :=
    (toNat_ofNat_extract _ _ (by decide)).trans (extract_bit s.rx 10 3)
  refine ⟨_, exec_decode_eq_decoded h, ?_⟩
  rw [decoded_ds, r.xFan, r.xFanForHeat]
  refine ⟨fun hm => ?coolOrDry, fun hm => ?heat, fun hm => ?other⟩
  case coolOrDry =>
    have hmode : (newSnapshot s).mode = modeCool ∨ (newSnapshot s).mode = modeDry :=
      hm.imp BitVec.eq_of_toNat_eq BitVec.eq_of_toNat_eq
    rw [if_pos hmode, if_pos hmode]
    exact ⟨hbit, rfl⟩
  case heat =>
    have hmode : (newSnapshot s).mode = modeHeat := BitVec.eq_of_toNat_eq hm
    rw [hmode]
    exact ⟨hbit, rfl⟩
  case other =>
    have hcool : ¬ ((newSnapshot s).mode = modeCool ∨ (newSnapshot s).mode = modeDry) := by
      rintro (hmode | hmode) <;> exact hm (by simp [hmode])
    have hheat : (newSnapshot s).mode ≠ modeHeat := fun hmode => hm (by simp [hmode])
    simp only [if_neg hcool, if_neg hheat, and_self]

/-! #### The fan components and the warnings -/

/-- The derived fan_state is R205's and R206's priority over the values of its components, in all 64 combinations. -/
theorem fanStateOf_toNat (turbo : BitVec 1) (quietType : BitVec 2) (fanSpeed : BitVec 3) :
    (fanStateOf turbo quietType fanSpeed).toNat = fanPriority turbo.toNat quietType.toNat fanSpeed.toNat := by
  revert turbo quietType fanSpeed
  decide

/-- fan_state is UNKNOWN only where turbo and quiet_type leave it to a fan_speed above 5 (R205). -/
theorem fanPriority_eq_unknown {turbo quiet speed : Nat} (h : fanPriority turbo quiet speed = 10) :
    turbo ≠ 1 ∧ (quiet ≠ 1 ∧ quiet ≠ 2 ∧ quiet ≠ 3) ∧ 6 ≤ speed := by
  unfold fanPriority at h
  split_ifs at h <;> omega

theorem warnsQuiet3_iff (n : DeviceState) :
    warnsQuiet3 n = true ↔ n.turbo.toNat = 0 ∧ n.quietType.toNat = 3 := by
  simp [warnsQuiet3, ← BitVec.toNat_inj]

theorem warnsUnrec_iff (n : DeviceState) :
    warnsUnrec n = true ↔ n.humidifyType.toNat = 7 ∨ n.horizontalAirDirection.toNat = 7
      ∨ n.verticalAirDirection.toNat = 7
      ∨ (n.turbo.toNat = 0 ∧ n.quietType.toNat = 0 ∧ 6 ≤ n.fanSpeed.toNat) := by
  simp [warnsUnrec, ← BitVec.toNat_inj, or_assoc, and_assoc, Nat.lt_iff_add_one_le]

/-- Settles O35: the state after DECODE is `decoded`, whose warnings are those of its snapshot. -/
theorem decodeCommitsSnapshotAndWarnings : Obligations.DecodeCommitsSnapshotAndWarnings := fun s h =>
  ⟨_, exec_decode_eq_decoded h, (newSnapshot_registers s).valid, warnsQuiet3_iff _, warnsUnrec_iff _, rfl⟩

/-- Settles O31: fan_state is the priority of the components, and is UNKNOWN only where the components warn. -/
theorem decodeDerivesFanStateByPriority : Obligations.DecodeDerivesFanStateByPriority := by
  intro s h
  have r := newSnapshot_registers s
  have hstate : (newSnapshot s).fanState.toNat = fanPriority (newSnapshot s).turbo.toNat
      (newSnapshot s).quietType.toNat (newSnapshot s).fanSpeed.toNat := r.fanState ▸ fanStateOf_toNat _ _ _
  refine ⟨_, exec_decode_eq_decoded h, ?turbo, ?quiet, ?speed, hstate, warnsQuiet3_iff _, fun hunknown => ?warns⟩
  case turbo =>
    rw [decoded_ds, r.turbo, toNat_ofNat_extract _ _ (by decide), Wire.turbo, extract_bit, Nat.pow_zero, Nat.div_one]
  case quiet =>
    rw [decoded_ds, r.quietType, toNat_ofNat_extract _ _ (by decide), Wire.quietType, extract_single]
    rfl
  case speed =>
    rw [decoded_ds, r.fanSpeed, toNat_ofNat_extract _ _ (by decide), Wire.fanSpeed, extract_single, slice,
      Nat.pow_zero, Nat.div_one]
    rfl
  case warns =>
    obtain ⟨hturbo, hquiet, hspeed⟩ := fanPriority_eq_unknown (hstate.symm.trans hunknown)
    have := (newSnapshot s).turbo.isLt
    have := (newSnapshot s).quietType.isLt
    exact (warnsUnrec_iff _).2 (.inr (.inr (.inr (by omega))))

/-! #### The sleep curve, the split field, regional swing and pass-through -/

/-- The extraction of two bits, the first one high. -/
theorem extract_two_bits (f : Memory) (a j b k : Nat) :
    extract f [⟨a, j, j⟩, ⟨b, k, k⟩] = 2 * ((f.read a).toNat / 2 ^ j % 2) + (f.read b).toNat / 2 ^ k % 2 := by
  have hw : segsWidth [⟨b, k, k⟩] = 1 := by simp [segsWidth, Seg.width]
  rw [extract, extract_bit, slice, hw, Nat.add_sub_cancel_left, Nat.pow_one, Nat.mul_comm]

theorem extract_sleepIndex_byte8 {p : Params} (h : p.sleepHi = .byte8) (f : Memory) :
    extract f p.sleepIndex =
      2 * ((f.read 8).toNat / 2 ^ p.sleepB8 % 2) + (f.read 20).toNat / 2 ^ p.sleepB20 % 2 := by
  rw [Params.sleepIndex, h]
  exact extract_two_bits f 8 p.sleepB8 20 p.sleepB20

theorem extract_sleepIndex_byte20 {p : Params} (h : p.sleepHi = .byte20) (f : Memory) :
    extract f p.sleepIndex =
      2 * ((f.read 20).toNat / 2 ^ p.sleepB20 % 2) + (f.read 8).toNat / 2 ^ p.sleepB8 % 2 := by
  rw [Params.sleepIndex, h]
  exact extract_two_bits f 20 p.sleepB20 8 p.sleepB8

/-- Settles O32: the SIESTA bit is the top bit of byte 20, and without it the register holds the index. -/
theorem decodeReadsTheSleepCurve : Obligations.DecodeReadsTheSleepCurve := by
  intro s h p bit8 bit20
  have htype := (newSnapshot_registers s).sleepCurveType
  have hsiesta : extract s.rx Wire.siesta = 1 ↔ 128 ≤ (s.rx.read 20).toNat := by
    have := (s.rx.read 20).isLt
    rw [Wire.siesta, extract_topBit]
    omega
  have hindex : (s.rx.read 20).toNat < 128 → (newSnapshot s).sleepCurveType.toNat = extract s.rx p.sleepIndex := by
    intro hlt
    rw [htype, if_neg fun h1 => hlt.not_ge (hsiesta.1 h1)]
    exact toNat_ofNat_extract _ _ (Config.machine.sleep_width.trans_le (by decide))
  refine ⟨_, exec_decode_eq_decoded h, fun hge => ?_, fun hlt hhi => ?_, fun hlt hhi => ?_⟩
  · rw [decoded_ds, htype, if_pos (hsiesta.2 hge)]
    rfl
  · exact (hindex hlt).trans (extract_sleepIndex_byte8 hhi s.rx)
  · exact (hindex hlt).trans (extract_sleepIndex_byte20 hhi s.rx)

/-- minutes_until_on is split between bits 6-4 of byte 17 and byte 16 (R208). -/
theorem extract_minutesUntilOn (f : Memory) :
    extract f Wire.minutesUntilOn = (f.read 17).toNat / 16 % 8 * 256 + (f.read 16).toNat := by
  rw [Wire.minutesUntilOn, extract, extract_byte, slice]
  rfl

/-- Settles O33: the spill bit decides between the sentinel and the position byte, which is a byte like the pass-through
ones. -/
theorem decodeReadsSplitSwingAndPassThrough : Obligations.DecodeReadsSplitSwingAndPassThrough := by
  intro s h p
  have r := newSnapshot_registers s
  have hspill : extract s.rx p.swingSpill = 1 ↔ (s.rx.read p.swingSpillByte).getLsbD p.swingSpillBit = true :=
    extract_bit_eq_one_iff _ _ _
  refine ⟨_, exec_decode_eq_decoded h, ?split, fun hset => ?spilled, fun hclear => ?position, r.pass27, r.pass41⟩
  case split =>
    rw [decoded_ds, r.minutesUntilOn, toNat_ofNat_extract _ _ (by decide), extract_minutesUntilOn]
  case spilled =>
    rw [decoded_ds, r.regionalSwingPosition, if_pos (hspill.2 hset)]
    rfl
  case position =>
    have hnot : extract s.rx p.swingSpill ≠ 1 := fun h1 => Bool.eq_false_iff.1 hclear (hspill.1 h1)
    rw [decoded_ds, r.regionalSwingPosition, if_neg hnot,
      toNat_ofNat_extract _ Config.machine.params.swingPosition (show 8 ≤ 9 by decide)]
    exact extract_byte _ _

/-! #### What decides a decoded snapshot -/

/-- The registers R202 to R211 give, with the FIELD_MAP ones, are the whole snapshot. -/
theorem DecodedRegisters.unique {c : Config} {f : Memory} {d n m : DeviceState} (hn : DecodedRegisters c f d n)
    (hm : DecodedRegisters c f d m) (hmapped : ∀ g ∈ Field.mapped, n.get g = m.get g) : n = m := by
  have hmode : n.mode = m.mode := hn.mode.trans hm.mode.symm
  refine DeviceState.ext_get fun g => ?_
  by_cases hg : g ∈ Field.mapped
  · exact hmapped g hg
  · cases g with
    | valid => exact congrArg (BitVec.setWidth 16) (hn.valid.trans hm.valid.symm)
    | temp => exact congrArg (BitVec.setWidth 16) (hn.temp.trans hm.temp.symm)
    | tempUnits => exact congrArg (BitVec.setWidth 16) (hn.tempUnits.trans hm.tempUnits.symm)
    | isOn => exact congrArg (BitVec.setWidth 16) (hn.isOn.trans hm.isOn.symm)
    | mode => exact congrArg (BitVec.setWidth 16) hmode
    | fanState =>
      have hfan : n.fanState = m.fanState := by
        rw [hn.fanState, hm.fanState, hn.turbo, hm.turbo, hn.quietType, hm.quietType, hn.fanSpeed, hm.fanSpeed]
      exact congrArg (BitVec.setWidth 16) hfan
    | fanSpeed => exact congrArg (BitVec.setWidth 16) (hn.fanSpeed.trans hm.fanSpeed.symm)
    | turbo => exact congrArg (BitVec.setWidth 16) (hn.turbo.trans hm.turbo.symm)
    | quietType => exact congrArg (BitVec.setWidth 16) (hn.quietType.trans hm.quietType.symm)
    | xFan => exact congrArg (BitVec.setWidth 16) (hn.xFan.trans (hmode ▸ hm.xFan.symm))
    | xFanForHeat => exact congrArg (BitVec.setWidth 16) (hn.xFanForHeat.trans (hmode ▸ hm.xFanForHeat.symm))
    | sleepCurveType => exact congrArg (BitVec.setWidth 16) (hn.sleepCurveType.trans hm.sleepCurveType.symm)
    | minutesUntilOn => exact congrArg (BitVec.setWidth 16) (hn.minutesUntilOn.trans hm.minutesUntilOn.symm)
    | regionalSwingPosition =>
      exact congrArg (BitVec.setWidth 16) (hn.regionalSwingPosition.trans hm.regionalSwingPosition.symm)
    | pass27 => exact congrArg (BitVec.setWidth 16) (hn.pass27.trans hm.pass27.symm)
    | pass41 => exact congrArg (BitVec.setWidth 16) (hn.pass41.trans hm.pass41.symm)
    | customSleepCurve k => exact absurd (by revert k; decide) hg
    | _ => exact absurd (by decide) hg

/-- A snapshot that holds what a frame says is the one DECODE makes of the frame. -/
theorem DecodedRegisters.eq_decodeSnapshot {c : Config} {f : Memory} {d n : DeviceState}
    (h : DecodedRegisters c f d n) (hmapped : ∀ g ∈ Field.mapped, (n.get g).toNat = extract f (c.fieldMap g)) :
    n = decodeSnapshot c f d :=
  h.unique (decodeSnapshot_registers c f d) fun g hg =>
    BitVec.eq_of_toNat_eq ((hmapped g hg).trans (decodeSnapshot_mapped c f d hg).symm)

/-! #### Decoding a frame again -/

/-- Decoding the frame over the decoded snapshot asks for the same registers: the X-Fan registers alone depend on the
snapshot before, and only where the mode leaves them (R204, R213). -/
theorem DecodedRegisters.again {c : Config} {f : Memory} {d n : DeviceState} (h : DecodedRegisters c f d n) :
    DecodedRegisters c f n n where
  __ := h
  xFan := by
    split_ifs with hcool hheat
    · exact h.xFan.trans (if_pos hcool)
    · exact h.xFan.trans ((if_neg hcool).trans (if_pos hheat))
    · rfl
  xFanForHeat := by
    split_ifs with hcool hheat
    · exact h.xFanForHeat.trans (if_pos hcool)
    · exact h.xFanForHeat.trans ((if_neg hcool).trans (if_pos hheat))
    · rfl

/-- Decoding is idempotent (R213). -/
theorem decodeSnapshot_decodeSnapshot (c : Config) (f : Memory) (d : DeviceState) :
    decodeSnapshot c f (decodeSnapshot c f d) = decodeSnapshot c f d :=
  ((decodeSnapshot_registers c f d).again.eq_decodeSnapshot fun _ hg => decodeSnapshot_mapped c f d hg).symm

/-- DECODE is no writer of RXOK, whatever it ends in (R213). -/
theorem Effect.keeps_rxok_of_decode {s u : State} {e : ErrCode} (h : Effect .decode s u e) : u.rxok = s.rxok := by
  cases h with
  | read | fail | decode => rfl

/-- Settles O36: DECODE is no writer of a buffer, and decoding the same frame over its own snapshot gives it again. -/
theorem secondDecodeOfTheFrameChangesNothing : Obligations.SecondDecodeOfTheFrameChangesNothing := by
  intro s t ht
  refine ⟨?buffers, fun h r hrx hrxlen hrxok hds => ?again⟩
  case buffers =>
    obtain ⟨u, e, v, rfl, -, he⟩ := exec_cases ht
    obtain ⟨hrx, hrxlen⟩ := he.keeps_rx nofun nofun nofun
    obtain ⟨htx, htxlen⟩ := he.keeps_tx nofun nofun (by simp [ProducesFrame]) nofun
    exact ⟨hrx, hrxlen, he.keeps_rxok_of_decode, htx, htxlen⟩
  case again =>
    obtain rfl : decoded s = t := Host.Outcome.next.inj ((exec_decode_eq_decoded h).symm.trans ht)
    have hready : DecodeReady r :=
      ⟨hrxok.trans h.validated, hrxlen ▸ h.long, hrx ▸ h.type⟩
    have hsnap : newSnapshot r = newSnapshot s := by
      rw [newSnapshot, hrx, hds]
      exact decodeSnapshot_decodeSnapshot _ _ _
    exact ⟨_, exec_decode_eq_decoded hready, hsnap, congrArg warnsUnrec hsnap, congrArg warnsQuiet3 hsnap⟩

/-! #### The bits DECODE learns from -/

/-- The bits of a frame that some position covers, by the kind of position (R72(d)). -/
theorem mem_coveredCells (p : Params) (cell : Nat) :
    cell ∈ p.coveredCells ↔ cell ∈ segsCells Wire.stated ∨ cell ∈ segsCells p.sleepIndex
      ∨ cell ∈ segsCells p.swingPosition ∨ cell ∈ segsCells p.swingSpill ∨ cell ∈ p.pass27Cells
      ∨ cell ∈ Field.mapped.flatMap fun g => segsCells (p.fieldMap g) := by
  simp only [Params.coveredCells, List.mem_append, or_assoc]

/-- Two frames agree on every covered bit from byte 5 on (R73, R215). -/
def SameCovered (c : Config) (f g : Memory) : Prop :=
  ∀ cell ∈ c.params.coveredCells, 40 ≤ cell → frameBit f cell = frameBit g cell

namespace SameCovered

variable {c : Config} {f g : Memory} (h : SameCovered c f g)
include h

/-- A covered segment list from byte 5 on has one extraction. -/
theorem extract_eq {segs : List Seg} (hseg : ∀ sg ∈ segs, sg.hi ≤ 7 ∧ 5 ≤ sg.byte)
    (hsub : segsCells segs ⊆ c.params.coveredCells) : extract f segs = extract g segs := by
  refine extract_congr segs (fun sg hsg => (hseg sg hsg).1) fun cell hcell => h cell (hsub hcell) ?_
  obtain ⟨sg, hsg, hc⟩ := (mem_segsCells segs cell).1 hcell
  obtain ⟨k, -, -, rfl⟩ := (Seg.mem_cells sg cell).1 hc
  have := (hseg sg hsg).2
  simp only [cellOf]
  omega

/-- A position of R70 or R71. -/
theorem extract_stated {segs : List Seg} (hseg : ∀ sg ∈ segs, sg ∈ Wire.stated ∧ 5 ≤ sg.byte) :
    extract f segs = extract g segs := by
  have hhi : ∀ sg ∈ Wire.stated, sg.hi ≤ 7 := by decide
  refine h.extract_eq (fun sg hsg => ⟨hhi sg (hseg sg hsg).1, (hseg sg hsg).2⟩) fun cell hc => ?_
  obtain ⟨sg, hsg, hcell⟩ := (mem_segsCells segs cell).1 hc
  exact (mem_coveredCells _ _).2 (.inl ((mem_segsCells _ cell).2 ⟨sg, (hseg sg hsg).1, hcell⟩))

theorem extract_sleepIndex : extract f c.params.sleepIndex = extract g c.params.sleepIndex := by
  refine h.extract_eq (fun sg hsg => ?_) fun cell hc => (mem_coveredCells _ _).2 (.inr (.inl hc))
  have := c.sleep_hi sg hsg
  omega

theorem extract_swingPosition : extract f c.params.swingPosition = extract g c.params.swingPosition := by
  refine h.extract_eq (fun sg hsg => ?_) fun cell hc => (mem_coveredCells _ _).2 (.inr (.inr (.inl hc)))
  obtain rfl := List.mem_singleton.1 hsg
  exact ⟨le_rfl, c.swing.1.1⟩

theorem extract_swingSpill : extract f c.params.swingSpill = extract g c.params.swingSpill := by
  obtain ⟨-, ⟨h5, -, h7⟩, -⟩ := c.swing
  refine h.extract_eq (fun sg hsg => ?_) fun cell hc => (mem_coveredCells _ _).2 (.inr (.inr (.inr (.inl hc))))
  obtain rfl := List.mem_singleton.1 hsg
  exact ⟨h7, h5⟩

theorem extract_mapped {x : Field} (hx : x ∈ Field.mapped) :
    extract f (c.fieldMap x) = extract g (c.fieldMap x) := by
  refine h.extract_eq (fun sg hsg => ?_) fun cell hc =>
    (mem_coveredCells _ _).2 (.inr (.inr (.inr (.inr (.inr (c.mem_mapped hx hc))))))
  have := c.mapped_seg hx hsg
  omega

/-- The bits of byte 27 that DECODE keeps are covered (R76, R211). -/
theorem read_pass27 : f.read 27 &&& c.params.pass27Mask = g.read 27 &&& c.params.pass27Mask := by
  apply BitVec.eq_of_getLsbD_eq
  intro k hk
  rw [BitVec.getLsbD_and, BitVec.getLsbD_and]
  cases hmask : c.params.pass27Mask.getLsbD k with
  | false => rw [Bool.and_false, Bool.and_false]
  | true =>
    have hmem : cellOf 27 k ∈ c.params.pass27Cells :=
      List.mem_map.2 ⟨k, List.mem_filter.2 ⟨List.mem_range.2 hk, hmask⟩, rfl⟩
    have hbit := h _ (pass27Cells_subset_coveredCells _ hmem) (by simp only [cellOf]; omega)
    rw [frameBit_cellOf f (by omega), frameBit_cellOf g (by omega)] at hbit
    rw [hbit]

/-- What one of the frames says of a snapshot the other says too, if they agree on byte 41 (R215). -/
theorem registers (h41 : f.read 41 = g.read 41) {d n : DeviceState} (r : DecodedRegisters c f d n) :
    DecodedRegisters c g d n := by
  have hisOn := h.extract_stated (segs := Wire.isOn) (by decide)
  have hmode := h.extract_stated (segs := Wire.mode) (by decide)
  have hunits := h.extract_stated (segs := Wire.tempUnits) (by decide)
  have hupper := h.extract_stated (segs := Wire.tempUpper) (by decide)
  have hlower := h.extract_stated (segs := Wire.tempLower) (by decide)
  have hhalf := h.extract_stated (segs := Wire.tempHalf) (by decide)
  have hxFan := h.extract_stated (segs := Wire.xFan) (by decide)
  have hturbo := h.extract_stated (segs := Wire.turbo) (by decide)
  have hquiet := h.extract_stated (segs := Wire.quietType) (by decide)
  have hspeed := h.extract_stated (segs := Wire.fanSpeed) (by decide)
  have hsiesta := h.extract_stated (segs := Wire.siesta) (by decide)
  have hminutes := h.extract_stated (segs := Wire.minutesUntilOn) (by decide)
  constructor
  case valid => exact r.valid
  case isOn => exact hisOn ▸ r.isOn
  case mode => exact hmode ▸ r.mode
  case temp => exact hunits ▸ hupper ▸ hlower ▸ hhalf ▸ r.temp
  case tempUnits => exact hunits ▸ r.tempUnits
  case xFan => exact hxFan ▸ r.xFan
  case xFanForHeat => exact hxFan ▸ r.xFanForHeat
  case turbo => exact hturbo ▸ r.turbo
  case quietType => exact hquiet ▸ r.quietType
  case fanSpeed => exact hspeed ▸ r.fanSpeed
  case fanState => exact r.fanState
  case sleepCurveType => exact hsiesta ▸ h.extract_sleepIndex ▸ r.sleepCurveType
  case minutesUntilOn => exact hminutes ▸ r.minutesUntilOn
  case regionalSwingPosition => exact h.extract_swingSpill ▸ h.extract_swingPosition ▸ r.regionalSwingPosition
  case pass27 => exact h.read_pass27 ▸ r.pass27
  case pass41 => exact h41 ▸ r.pass41

/-- The decoded snapshot is a function of the covered bits, byte 41 and the snapshot before it (R215). -/
theorem decodeSnapshot_eq (h41 : f.read 41 = g.read 41) (d : DeviceState) :
    decodeSnapshot c f d = decodeSnapshot c g d :=
  (h.registers h41 (decodeSnapshot_registers c f d)).eq_decodeSnapshot fun _ hx =>
    (decodeSnapshot_mapped c f d hx).trans (h.extract_mapped hx)

end SameCovered

/-- Settles O37: the two frames give one snapshot, and the warnings are read off the snapshot. -/
theorem decodeDependsOnlyOnCoveredBits : Obligations.DecodeDependsOnlyOnCoveredBits := by
  intro r s hr hs hds hcovered h41
  have hsame : SameCovered Config.machine r.rx s.rx := hcovered
  have hsnap : newSnapshot r = newSnapshot s := by
    rw [newSnapshot, hds]
    exact hsame.decodeSnapshot_eq h41 s.ds
  exact ⟨_, _, exec_decode_eq_decoded hr, exec_decode_eq_decoded hs, hsnap, congrArg warnsUnrec hsnap,
    congrArg warnsQuiet3 hsnap⟩

end Sys2Proof.Machine

/-! ### ENCODE: normalisation -/

namespace Sys2Proof.Machine

section

variable (d : DeviceState)

/-! #### What normalisation keeps -/

@[simp] theorem normalise_isOn : (normalise d).isOn = d.isOn :=
  eq_of_setWidth_eq (by decide) (normalise_get d (g := .isOn) (by decide))

@[simp] theorem normalise_mode : (normalise d).mode = d.mode :=
  eq_of_setWidth_eq (by decide) (normalise_get d (g := .mode) (by decide))

@[simp] theorem normalise_temp : (normalise d).temp = d.temp :=
  eq_of_setWidth_eq (by decide) (normalise_get d (g := .temp) (by decide))

@[simp] theorem normalise_tempUnits : (normalise d).tempUnits = d.tempUnits :=
  eq_of_setWidth_eq (by decide) (normalise_get d (g := .tempUnits) (by decide))

@[simp] theorem normalise_xFan : (normalise d).xFan = d.xFan :=
  eq_of_setWidth_eq (by decide) (normalise_get d (g := .xFan) (by decide))

@[simp] theorem normalise_xFanForHeat : (normalise d).xFanForHeat = d.xFanForHeat :=
  eq_of_setWidth_eq (by decide) (normalise_get d (g := .xFanForHeat) (by decide))

@[simp] theorem normalise_minutesUntilOn : (normalise d).minutesUntilOn = d.minutesUntilOn :=
  eq_of_setWidth_eq (by decide) (normalise_get d (g := .minutesUntilOn) (by decide))

@[simp] theorem normalise_regionalSwingPosition :
    (normalise d).regionalSwingPosition = d.regionalSwingPosition :=
  eq_of_setWidth_eq (by decide) (normalise_get d (g := .regionalSwingPosition) (by decide))

@[simp] theorem normalise_useRemoteTempSensor : (normalise d).useRemoteTempSensor = d.useRemoteTempSensor :=
  eq_of_setWidth_eq (by decide) (normalise_get d (g := .useRemoteTempSensor) (by decide))

@[simp] theorem normalise_pass27 : (normalise d).pass27 = d.pass27 :=
  eq_of_setWidth_eq (by decide) (normalise_get d (g := .pass27) (by decide))

/-- The X-Fan bit is gated by registers that normalisation keeps (R253). -/
@[simp] theorem xFanBit_normalise : xFanBit (normalise d) = xFanBit d := by
  simp [xFanBit]

/-! #### What step 1 clears -/

/-- Step 1, register by register (R243). -/
theorem toNat_get_normaliseOff (g : Field) : ((normaliseOff d).get g).toNat = clearedIfOff d g := by
  unfold clearedIfOff
  split_ifs with h
  case pos =>
    obtain ⟨hoff, hg⟩ := h
    simp only [List.mem_cons, List.not_mem_nil, or_false] at hg
    rw [normaliseOff, if_pos hoff]
    obtain rfl | rfl | rfl | rfl | rfl := hg <;> rfl
  case neg =>
    by_cases hoff : d.isOn = 0
    · rw [normaliseOff_get d fun hg => h ⟨hoff, by revert hg; simp only [List.mem_cons]; tauto⟩]
    · rw [normaliseOff, if_neg hoff]

/-- Only step 1 touches a register that is no fan component (R243 to R246). -/
theorem toNat_get_normalise {g : Field} (h : g ∉ [Field.turbo, .quietType, .fanSpeed]) :
    ((normalise d).get g).toNat = clearedIfOff d g := by
  have hn : g ∉ [Field.turbo, .fanSpeed] := fun hg => h (by revert hg; simp only [List.mem_cons]; tauto)
  rw [normalise, applyNoiseControl_get _ hn, applyFanState_get _ h, toNat_get_normaliseOff]

theorem normalise_sleepCurveType_toNat :
    (normalise d).sleepCurveType.toNat = clearedIfOff d .sleepCurveType := by
  rw [← toNat_get_normalise d (g := .sleepCurveType) (by decide)]
  exact (toNat_setWidth_of_le (by decide) _).symm

/-! #### The fan components, step by step -/

/-- The fan components of a snapshot. -/
def fanBits : FanBits := ⟨d.turbo.toNat, d.quietType.toNat, d.fanSpeed.toNat⟩

theorem fanBits_normaliseOff : fanBits (normaliseOff d) = fanStep1 d := by
  unfold normaliseOff fanStep1
  split_ifs <;> rfl

/-- A fan_state of 0 to 5 gives its own speed, and clears the other two components (R244). -/
theorem fanStep2_of_level (h : d.fanState.toNat ≤ 5) : fanStep2 d = ⟨0, 0, d.fanState.toNat⟩ := by
  unfold fanStep2
  generalize d.fanState.toNat = x at h
  interval_cases x <;> rfl

/-- A fan_state above 8 counts as absent (R245). -/
theorem fanStep2_of_absent (h : 9 ≤ d.fanState.toNat) : fanStep2 d = fanStep1 d := by
  unfold fanStep2
  generalize d.fanState.toNat = x at h
  obtain ⟨k, rfl⟩ := Nat.exists_eq_add_of_le' h
  rfl

/-- Step 2 over the components of step 1 (R244, R245). -/
theorem fanBits_applyFanState : fanBits (applyFanState (normaliseOff d)) = fanStep2 d := by
  have hstate : (normaliseOff d).fanState = d.fanState :=
    eq_of_setWidth_eq (by decide) (normaliseOff_get d (g := .fanState) (by decide))
  have hbits := fanBits_normaliseOff d
  rw [applyFanState, hstate]
  split_ifs with h6 h8 h7 h5
  · rw [fanStep2, h6, ← hbits]
    rfl
  · rw [fanStep2, h8, ← hbits]
    rfl
  · rw [fanStep2, h7, ← hbits]
    rfl
  · rw [fanStep2_of_level d h5]
    simp only [fanBits, BitVec.toNat_setWidth]
    rw [Nat.mod_eq_of_lt (by omega)]
    rfl
  · have hne : ∀ {k : BitVec 4}, d.fanState ≠ k → d.fanState.toNat ≠ k.toNat := mt BitVec.eq_of_toNat_eq
    have k6 : d.fanState.toNat ≠ 6 := hne h6
    have k7 : d.fanState.toNat ≠ 7 := hne h7
    have k8 : d.fanState.toNat ≠ 8 := hne h8
    rw [fanStep2_of_absent d (by omega), hbits]

/-- The chain of comparisons gives the highest matching threshold, which fits fan_speed (R247). -/
theorem toNat_noiseSpeed (v : Nat) : (BitVec.ofNat 3 (noiseSpeed v)).toNat = noiseLevel v := by
  unfold noiseSpeed noiseLevel
  split_ifs <;> simp [*]

/-- Step 3 over any components: noise control decides turbo and fan_speed in heat and cool (R246). -/
theorem fanBits_applyNoiseControl :
    fanBits (applyNoiseControl d) =
      if d.noiseControlEnable = 1 ∧ d.mode = 4 then ⟨0, (fanBits d).quiet, noiseLevel d.noiseControlHeating.toNat⟩
      else if d.noiseControlEnable = 1 ∧ d.mode = 1 then
        ⟨0, (fanBits d).quiet, noiseLevel d.noiseControlCooling.toNat⟩
      else fanBits d := by
  unfold applyNoiseControl
  by_cases henable : d.noiseControlEnable = 1
  · simp only [henable, true_and, if_true]
    by_cases hheat : d.mode = modeHeat
    · rw [if_pos hheat, if_pos hheat, ← toNat_noiseSpeed]
      rfl
    · rw [if_neg hheat, if_neg hheat]
      by_cases hcool : d.mode = modeCool
      · rw [if_pos hcool, if_pos hcool, ← toNat_noiseSpeed]
        rfl
      · rw [if_neg hcool, if_neg hcool]
  · simp only [henable, false_and, if_false]

/-- The fan components of the packed snapshot are those after steps 1, 2 and 3 (R248). -/
theorem fanBits_normalise : fanBits (normalise d) = fanStep3 d := by
  have hkeep : ∀ {g : Field}, g ∉ [Field.intakeExhaust, .quietType, .sleepCurveType, .humidifyType, .purify] →
      g ∉ [Field.turbo, .quietType, .fanSpeed] → (applyFanState (normaliseOff d)).get g = d.get g := fun h1 h2 =>
    (applyFanState_get _ h2).trans (normaliseOff_get d h1)
  have henable := eq_of_setWidth_eq (by decide) (hkeep (g := .noiseControlEnable) (by decide) (by decide))
  have hmode := eq_of_setWidth_eq (by decide) (hkeep (g := .mode) (by decide) (by decide))
  have hheat := eq_of_setWidth_eq (by decide) (hkeep (g := .noiseControlHeating) (by decide) (by decide))
  have hcool := eq_of_setWidth_eq (by decide) (hkeep (g := .noiseControlCooling) (by decide) (by decide))
  rw [normalise, fanBits_applyNoiseControl, henable, hmode, hheat, hcool, fanBits_applyFanState]
  rfl

end

end Sys2Proof.Machine

/-! ### ENCODE: what the command frame holds -/

namespace Sys2Proof.Machine

/-! #### Bits that no part writes -/

/-- A segment list all of whose bits are 0 extracts 0. -/
theorem extract_eq_zero {f : Memory} {segs : List Seg} (hhi : ∀ sg ∈ segs, sg.hi ≤ 7)
    (h : ∀ cell ∈ segsCells segs, frameBit f cell = false) : extract f segs = 0 := by
  have hzero : extract Memory.zero segs = 0 := by
    induction segs with
    | nil => rfl
    | cons sg rest ih =>
      rw [extract, ih (fun s hs => hhi s (List.mem_cons_of_mem _ hs)) fun cell hc => h cell (List.mem_append_right _ hc)]
      simp [slice, Memory.read_zero, unlistedByte]
  rw [← hzero]
  exact extract_congr segs hhi fun cell hc => (h cell hc).trans (by simp [frameBit, Memory.read_zero, unlistedByte])

/-- A bit of bytes 5..38 that no part of the frame covers is a pass-through bit or 0 (R250, R259). -/
theorem frameBit_commandFrame_outside (c : Config) (d : DeviceState) (latch : BitVec 1) {cell : Nat}
    (h5 : 5 ≤ cell / 8) (h38 : cell / 8 ≤ 38) (hparts : ∀ p ∈ packParts c (normalise d), cell ∉ segsCells p.1) :
    frameBit (commandFrame c d latch) cell =
      (decide (cell ∈ c.params.pass27Cells) && d.pass27.getLsbD (cell % 8)) := by
  have hseal : cell / 8 ≠ cmdFrameLen - 1 := by
    simp only [cmdFrameLen]
    omega
  rw [commandFrame, frameBit_sealFrame _ _ _ hseal, frameBit_pack_outside c _ latch cell hparts, frameBit,
    read_packInit_write_intent h5, normalise_pass27]
  simp

theorem segsCells_subset {l l' : List Seg} (h : l ⊆ l') : segsCells l ⊆ segsCells l' := fun cell hc => by
  obtain ⟨sg, hsg, hcell⟩ := (mem_segsCells l cell).1 hc
  exact (mem_segsCells l' cell).2 ⟨sg, h hsg, hcell⟩

theorem statedParts_subset (s : DeviceState) : ∀ p ∈ statedParts s, p.1 ⊆ Wire.stated := by
  simp only [statedParts, List.forall_mem_cons]
  decide

/-- In a SIESTA frame no part covers an index bit of the sleep curve (R255, R72(d)). -/
theorem not_mem_packParts_of_siesta (c : Config) {s : DeviceState} (h : s.sleepCurveType = sleepSiesta) {cell : Nat}
    (hc : cell ∈ segsCells c.params.sleepIndex) : ∀ p ∈ packParts c s, cell ∉ segsCells p.1 := by
  obtain ⟨⟨hstated, -⟩, ⟨hpos, hspill, -, hmapped⟩, -⟩ := c.disjoint_parts
  have hwire : ∀ {segs : List Seg}, segs ⊆ Wire.stated → cell ∉ segsCells segs := fun hsub hcell =>
    hstated (segsCells_subset hsub hcell) hc
  intro p hp
  simp only [packParts, sleepParts, if_pos h, mappedParts, List.mem_append, List.mem_map, List.mem_singleton] at hp
  obtain (((hp | rfl) | rfl) | hp) | ⟨g, hg, rfl⟩ := hp
  · exact hwire (statedParts_subset s p hp)
  · exact hwire (show Wire.siesta ⊆ Wire.stated by decide)
  · exact hwire (show Wire.minutesUntilOn ⊆ Wire.stated by decide)
  · unfold swingParts at hp
    split_ifs at hp <;> simp only [List.mem_cons, List.not_mem_nil, or_false] at hp <;> obtain rfl | rfl := hp
    · exact fun hcell => hpos hc hcell
    · exact fun hcell => hspill hc hcell
    · exact fun hcell => hpos hc hcell
    · exact fun hcell => hspill hc hcell
  · exact fun hcell => hmapped hc (c.mem_mapped hg hcell)

/-- The wire bits of a temperature fit their positions. -/
theorem encodeTemp_lt (units t2 : Nat) :
    (encodeTemp units t2).u < 2 ^ 4 ∧ (encodeTemp units t2).lo < 2 ^ 1 ∧ (encodeTemp units t2).h < 2 ^ 1 := by
  unfold encodeTemp clamp
  split_ifs <;> simp only <;> omega

/-! #### The frame, position by position -/

/-- What a frame says of the snapshot `d` it was encoded from, position by position (R251 to R257, R259): the counterpart
of `DecodedRegisters`. -/
structure EncodedRegisters (c : Config) (d : DeviceState) (f : Memory) : Prop where
  isOn : extract f Wire.isOn = d.isOn.toNat
  mode : extract f Wire.mode = d.mode.toNat % 8
  tempUnits : extract f Wire.tempUnits = d.tempUnits.toNat % 2
  tempUpper : extract f Wire.tempUpper = (encodeTemp (d.tempUnits.toNat % 2) d.temp.toNat).u
  tempLower : extract f Wire.tempLower = (encodeTemp (d.tempUnits.toNat % 2) d.temp.toNat).lo
  tempHalf : extract f Wire.tempHalf = (encodeTemp (d.tempUnits.toNat % 2) d.temp.toNat).h
  xFan : extract f Wire.xFan = (xFanBit d).toNat
  turbo : extract f Wire.turbo = (fanStep3 d).turbo
  quietType : extract f Wire.quietType = (fanStep3 d).quiet
  fanSpeed : extract f Wire.fanSpeed = (fanStep3 d).speed
  siesta : extract f Wire.siesta = if clearedIfOff d .sleepCurveType = 128 then 1 else 0
  sleepIndex : extract f c.params.sleepIndex =
    if clearedIfOff d .sleepCurveType = 128 then 0 else clearedIfOff d .sleepCurveType % 4
  minutesUntilOn : extract f Wire.minutesUntilOn = d.minutesUntilOn.toNat
  swingPosition : extract f c.params.swingPosition =
    if d.regionalSwingPosition = swingOverflow then 0 else d.regionalSwingPosition.toNat % 256
  swingSpill : extract f c.params.swingSpill = if d.regionalSwingPosition = swingOverflow then 1 else 0
  mapped : ∀ g ∈ Field.mapped, (g = .heatAssist → d.mode = modeHeat) →
    extract f (c.fieldMap g) = clearedIfOff d g % 2 ^ c.params.wireWidth g
  heatAssist : d.mode ≠ modeHeat → extract f (c.fieldMap .heatAssist) = 0
  pass27 : f.read 27 &&& c.params.pass27Mask = d.pass27 &&& c.params.pass27Mask

section

variable (c : Config) (d : DeviceState) (latch : BitVec 1)

/-- A part whose value fits its position is extracted as it was packed. -/
theorem extract_commandFrame_of_lt {segs : List Seg} {v : Nat} (hp : (segs, v) ∈ packParts c (normalise d))
    (hv : v < 2 ^ segsWidth segs) : extract (commandFrame c d latch) segs = v :=
  (extract_commandFrame c d latch hp).trans (Nat.mod_eq_of_lt hv)

theorem extract_commandFrame_stated {segs : List Seg} {v : Nat} (hp : (segs, v) ∈ statedParts (normalise d))
    (hv : v < 2 ^ segsWidth segs) : extract (commandFrame c d latch) segs = v :=
  extract_commandFrame_of_lt c d latch (statedParts_mem c _ hp) hv

/-- The index bits of the sleep curve lie in bytes 8 and 20 (R74). -/
theorem byte_of_mem_sleepIndex {cell : Nat} (h : cell ∈ segsCells c.params.sleepIndex) :
    cell / 8 = 8 ∨ cell / 8 = 20 := by
  obtain ⟨sg, hsg, hcell⟩ := (mem_segsCells _ cell).1 h
  obtain ⟨k, -, hk, rfl⟩ := (Seg.mem_cells sg cell).1 hcell
  have := c.sleep_hi sg hsg
  simp only [cellOf]
  omega

/-- A SIESTA frame leaves both index bits 0 (R255). -/
theorem commandFrame_sleepIndex_of_siesta (h : (normalise d).sleepCurveType = sleepSiesta) :
    extract (commandFrame c d latch) c.params.sleepIndex = 0 := by
  refine extract_eq_zero (fun sg hsg => (c.sleep_hi sg hsg).2.1) fun cell hc => ?_
  have hbyte := byte_of_mem_sleepIndex c hc
  have hpass : cell ∉ c.params.pass27Cells := fun hm => by
    have := ((mem_pass27Cells _ _).1 hm).1
    omega
  rw [frameBit_commandFrame_outside c d latch (by omega) (by omega) (not_mem_packParts_of_siesta c h hc),
    decide_eq_false hpass, Bool.false_and]

/-- The sleep curve of a command frame: the sentinel bit, or the index (R255). -/
theorem commandFrame_sleep :
    extract (commandFrame c d latch) Wire.siesta = (if clearedIfOff d .sleepCurveType = 128 then 1 else 0)
      ∧ extract (commandFrame c d latch) c.params.sleepIndex =
        if clearedIfOff d .sleepCurveType = 128 then 0 else clearedIfOff d .sleepCurveType % 4 := by
  rw [← normalise_sleepCurveType_toNat]
  by_cases h : (normalise d).sleepCurveType = sleepSiesta
  · have h128 : (normalise d).sleepCurveType.toNat = 128 := congrArg BitVec.toNat h
    have hparts : sleepParts c (normalise d) = [(Wire.siesta, 1)] := if_pos h
    rw [if_pos h128, if_pos h128]
    exact ⟨extract_commandFrame_of_lt c d latch (sleepParts_mem c _ (by simp [hparts])) (by decide),
      commandFrame_sleepIndex_of_siesta c d latch h⟩
  · have h128 : (normalise d).sleepCurveType.toNat ≠ 128 := fun he => h (BitVec.eq_of_toNat_eq he)
    have hparts : sleepParts c (normalise d) =
      [(Wire.siesta, 0), (c.params.sleepIndex, (normalise d).sleepCurveType.toNat % 4)] := if_neg h
    rw [if_neg h128, if_neg h128]
    exact ⟨extract_commandFrame_of_lt c d latch (sleepParts_mem c _ (by simp [hparts])) (by decide),
      extract_commandFrame_of_lt c d latch (sleepParts_mem c _ (by simp [hparts]))
        (by rw [c.sleep_width]; exact Nat.mod_lt _ (by decide))⟩

/-- Regional swing in a command frame: the position byte and the spill bit (R257). -/
theorem commandFrame_swing :
    extract (commandFrame c d latch) c.params.swingPosition =
        (if d.regionalSwingPosition = swingOverflow then 0 else d.regionalSwingPosition.toNat % 256)
      ∧ extract (commandFrame c d latch) c.params.swingSpill =
        if d.regionalSwingPosition = swingOverflow then 1 else 0 := by
  have part := fun {segs v} (hp : (segs, v) ∈ swingParts c (normalise d)) =>
    extract_commandFrame_of_lt c d latch (swingParts_mem c _ hp)
  have hpos : segsWidth c.params.swingPosition = 8 := rfl
  have hspill : segsWidth c.params.swingSpill = 1 := by simp [segsWidth, Params.swingSpill, Seg.width]
  simp only [swingParts, normalise_regionalSwingPosition] at part
  split_ifs at part ⊢
  · exact ⟨part (by simp) (Nat.two_pow_pos _), part (by simp) (by rw [hspill]; decide)⟩
  · exact ⟨part (by simp) (by rw [hpos]; exact Nat.mod_lt _ (by decide)), part (by simp) (Nat.two_pow_pos _)⟩

/-- The FIELD_MAP fields of a command frame, heat_assist but in heat mode (R256, R259). -/
theorem commandFrame_mapped {g : Field} (hg : g ∈ Field.mapped) (hheat : g = .heatAssist → d.mode = modeHeat) :
    extract (commandFrame c d latch) (c.fieldMap g) = clearedIfOff d g % 2 ^ c.params.wireWidth g := by
  have hfan : g ∉ [Field.turbo, .quietType, .fanSpeed] := fun hm => by
    revert hg
    simp only [List.mem_cons, List.not_mem_nil, or_false] at hm
    obtain rfl | rfl | rfl := hm <;> decide
  have hv : packedValue (normalise d) g = clearedIfOff d g := by
    rw [packedValue, if_neg fun h => h.2 ((normalise_mode d).trans (hheat h.1)), toNat_get_normalise d hfan]
  rw [extract_commandFrame c d latch (mappedParts_mem c _ hg), c.mapped_width hg, hv]

/-- Outside heat mode heat_assist is packed as 0 (R256). -/
theorem commandFrame_heatAssist (h : d.mode ≠ modeHeat) :
    extract (commandFrame c d latch) (c.fieldMap .heatAssist) = 0 := by
  refine extract_commandFrame_of_lt c d latch ?_ (Nat.two_pow_pos _)
  have hm := mappedParts_mem c (normalise d) (g := .heatAssist) (by decide)
  rwa [packedValue, if_pos ⟨rfl, by rwa [normalise_mode]⟩] at hm

/-- The pass-through bits of byte 27 (R259). -/
theorem commandFrame_pass27 :
    (commandFrame c d latch).read 27 &&& c.params.pass27Mask = d.pass27 &&& c.params.pass27Mask := by
  apply BitVec.eq_of_getLsbD_eq
  intro k hk
  rw [BitVec.getLsbD_and, BitVec.getLsbD_and]
  cases hmask : c.params.pass27Mask.getLsbD k with
  | false => rw [Bool.and_false, Bool.and_false]
  | true =>
    have hdiv : cellOf 27 k / 8 = 27 := by simp only [cellOf]; omega
    have hmod : cellOf 27 k % 8 = k := by simp only [cellOf]; omega
    have hmem : cellOf 27 k ∈ c.params.pass27Cells := (mem_pass27Cells _ _).2 ⟨hdiv, by rwa [hmod]⟩
    have hbit := frameBit_commandFrame_outside c d latch (cell := cellOf 27 k) (by omega) (by omega)
      fun p hp hc => (packParts_covered c _ hp hc).2 hmem
    rw [frameBit_cellOf _ (by omega), hmod, decide_eq_true hmem, Bool.true_and] at hbit
    rw [hbit]

/-- A command frame holds its snapshot. -/
theorem commandFrame_registers : EncodedRegisters c d (commandFrame c d latch) := by
  have part := fun {segs v} => extract_commandFrame_stated c d latch (segs := segs) (v := v)
  simp only [statedParts, normalise_isOn, normalise_mode, normalise_temp, normalise_tempUnits, xFanBit_normalise] at part
  obtain ⟨hu, hlo, hh⟩ := encodeTemp_lt (d.tempUnits.toNat % 2) d.temp.toNat
  have hfan := fanBits_normalise d
  constructor
  case isOn => exact part (by simp) d.isOn.isLt
  case mode => exact part (by simp) (Nat.mod_lt _ (by decide))
  case tempUnits => exact part (by simp) (Nat.mod_lt _ (by decide))
  case tempUpper => exact part (by simp) hu
  case tempLower => exact part (by simp) hlo
  case tempHalf => exact part (by simp) hh
  case xFan => exact part (by simp) (xFanBit d).isLt
  case turbo => exact hfan ▸ part (by simp [fanBits]) (normalise d).turbo.isLt
  case quietType => exact hfan ▸ part (by simp [fanBits]) (normalise d).quietType.isLt
  case fanSpeed => exact hfan ▸ part (by simp [fanBits]) (normalise d).fanSpeed.isLt
  case siesta => exact (commandFrame_sleep c d latch).1
  case sleepIndex => exact (commandFrame_sleep c d latch).2
  case minutesUntilOn =>
    exact normalise_minutesUntilOn d ▸
      extract_commandFrame_of_lt c d latch (minutesUntilOn_mem c _) (normalise d).minutesUntilOn.isLt
  case swingPosition => exact (commandFrame_swing c d latch).1
  case swingSpill => exact (commandFrame_swing c d latch).2
  case mapped => exact fun g hg hheat => commandFrame_mapped c d latch hg hheat
  case heatAssist => exact commandFrame_heatAssist c d latch
  case pass27 => exact commandFrame_pass27 c d latch

end

end Sys2Proof.Machine

/-! ### The round trip of a snapshot -/

namespace Sys2Proof.Machine

/-- What a frame says of its snapshot is a matter of bytes 5..38 (R72(b)). -/
theorem EncodedRegisters.congr {c : Config} {d : DeviceState} {f g : Memory} (h : EncodedRegisters c d f)
    (heq : ∀ a, 5 ≤ a → a ≤ 38 → g.read a = f.read a) : EncodedRegisters c d g := by
  have keep : ∀ {segs : List Seg}, (∀ sg ∈ segs, 5 ≤ sg.byte ∧ sg.byte ≤ 38) → extract g segs = extract f segs :=
    fun hseg => extract_congr_read fun sg hsg => heq _ (hseg sg hsg).1 (hseg sg hsg).2
  have hmapped : ∀ x ∈ Field.mapped, extract g (c.fieldMap x) = extract f (c.fieldMap x) := fun x hx =>
    keep fun sg hsg => (c.mapped_seg hx hsg).2.2
  obtain ⟨hpos, ⟨hspill5, hspill38, -⟩, -⟩ := c.swing
  constructor
  case isOn => exact (keep (by decide)).trans h.isOn
  case mode => exact (keep (by decide)).trans h.mode
  case tempUnits => exact (keep (by decide)).trans h.tempUnits
  case tempUpper => exact (keep (by decide)).trans h.tempUpper
  case tempLower => exact (keep (by decide)).trans h.tempLower
  case tempHalf => exact (keep (by decide)).trans h.tempHalf
  case xFan => exact (keep (by decide)).trans h.xFan
  case turbo => exact (keep (by decide)).trans h.turbo
  case quietType => exact (keep (by decide)).trans h.quietType
  case fanSpeed => exact (keep (by decide)).trans h.fanSpeed
  case siesta => exact (keep (by decide)).trans h.siesta
  case sleepIndex =>
    refine (keep fun sg hsg => ?_).trans h.sleepIndex
    have := (c.sleep_hi sg hsg).2.2
    omega
  case minutesUntilOn => exact (keep (by decide)).trans h.minutesUntilOn
  case swingPosition => exact (keep (List.forall_mem_singleton.2 hpos)).trans h.swingPosition
  case swingSpill => exact (keep (List.forall_mem_singleton.2 ⟨hspill5, hspill38⟩)).trans h.swingSpill
  case mapped => exact fun x hx hheat => (hmapped x hx).trans (h.mapped x hx hheat)
  case heatAssist => exact fun hm => (hmapped _ (by decide)).trans (h.heatAssist hm)
  case pass27 => rw [heq 27 (by decide) (by decide), h.pass27]

/-- Every temperature the decoder can produce is restored from its wire bits (R288): the half degrees of Celsius by
arithmetic, the 26 Fahrenheit degrees one by one. -/
theorem decodeTemp_encodeTemp {units t2 : Nat} (h : DecodableTemp units t2) :
    decodeTemp units (encodeTemp units t2).u (encodeTemp units t2).lo (encodeTemp units t2).h = t2 := by
  obtain ⟨rfl, hlo, hhi⟩ | ⟨rfl, hlo, hhi, heven⟩ := h
  · rw [decodeTemp_celsius]
    simp only [encodeTemp, clamp, zero_ne_one, if_false]
    omega
  · have hdegrees : ∀ k : Fin 26, decodeTemp 1 (encodeTemp 1 (2 * (61 + k))).u (encodeTemp 1 (2 * (61 + k))).lo
        (encodeTemp 1 (2 * (61 + k))).h = 2 * (61 + k) := by decide
    obtain ⟨k, rfl⟩ : ∃ k : Fin 26, t2 = 2 * (61 + k) := ⟨⟨t2 / 2 - 61, by omega⟩, by simp only; omega⟩
    exact hdegrees k

/-- A register of a legal snapshot after step 1 fits the wire width of its position (R72(c), R183). -/
theorem SnapshotLegal.clearedIfOff_lt {c : Config} {d : DeviceState} (h : SnapshotLegal c d) {g : Field}
    (hg : g ∈ Field.mapped) : clearedIfOff d g < 2 ^ c.params.wireWidth g := by
  have hcoded : g ∉ codedFields := fun hc => by
    revert hg
    simp only [codedFields, List.mem_cons, List.not_mem_nil, or_false] at hc
    obtain rfl | rfl | rfl | rfl | rfl | rfl | rfl := hc <;> decide
  have hne : g ≠ .valid ∧ g ≠ .mode ∧ g ≠ .tempUnits :=
    ⟨fun he => hcoded (he ▸ by decide), fun he => hcoded (he ▸ by decide), fun he => hcoded (he ▸ by decide)⟩
  unfold clearedIfOff
  split_ifs
  · exact Nat.two_pow_pos _
  · exact (inDomain_of_not_coded c hcoded _).1 (h.others g hne.1 hne.2.1 hne.2.2)

/-- After step 1 the sleep curve of a legal snapshot is an index or the SIESTA sentinel (R183, R243). -/
theorem SnapshotLegal.clearedIfOff_sleep {c : Config} {d : DeviceState} (h : SnapshotLegal c d) :
    clearedIfOff d .sleepCurveType ≤ 3 ∨ clearedIfOff d .sleepCurveType = 128 := by
  unfold clearedIfOff
  split_ifs
  · exact .inl (Nat.zero_le 3)
  · exact (inDomain_sleepCurveType c _).1 (h.others .sleepCurveType nofun nofun nofun)

/-- The pass-through register of a legal snapshot has no bit outside the mask (R76). -/
theorem SnapshotLegal.pass27_masked {c : Config} {d : DeviceState} (h : SnapshotLegal c d) :
    d.pass27 &&& c.params.pass27Mask = d.pass27 := by
  have hbits := (inDomain_pass27 c _).1 (h.others .pass27 nofun nofun nofun)
  apply BitVec.eq_of_getLsbD_eq
  intro k hk
  rw [BitVec.getLsbD_and]
  cases hb : d.pass27.getLsbD k with
  | false => rfl
  | true =>
    rw [hbits k (by simp [DeviceState.get, hb]; omega)]
    rfl

section

variable {c : Config} {d e n : DeviceState} {f : Memory} (enc : EncodedRegisters c d f)
  (dec : DecodedRegisters c f e n)
include enc dec

theorem roundTrip_isOn : n.isOn = d.isOn := by
  rw [dec.isOn, enc.isOn, BitVec.ofNat_toNat, BitVec.setWidth_eq]

theorem roundTrip_mode (h : d.mode.toNat ≤ 7) : n.mode = d.mode := by
  apply BitVec.eq_of_toNat_eq
  rw [dec.mode, enc.mode, BitVec.toNat_ofNat]
  omega

theorem roundTrip_tempUnits (h : d.tempUnits.toNat ≤ 1) : n.tempUnits = d.tempUnits := by
  apply BitVec.eq_of_toNat_eq
  rw [dec.tempUnits, enc.tempUnits, BitVec.toNat_ofNat]
  omega

theorem roundTrip_temp (h : DecodableTemp d.tempUnits.toNat d.temp.toNat) : n.temp = d.temp := by
  have hunits : d.tempUnits.toNat % 2 = d.tempUnits.toNat := by
    have := h
    simp only [DecodableTemp] at this
    omega
  rw [dec.temp, enc.tempUnits, enc.tempUpper, enc.tempLower, enc.tempHalf, hunits, decodeTemp_encodeTemp h,
    BitVec.ofNat_toNat, BitVec.setWidth_eq]

/-- The fan components come back as steps 1 to 3 left them, with the fan_state they stand for (R205). -/
theorem roundTrip_fan :
    n.turbo.toNat = (fanStep3 d).turbo ∧ n.quietType.toNat = (fanStep3 d).quiet
      ∧ n.fanSpeed.toNat = (fanStep3 d).speed
      ∧ n.fanState.toNat = fanPriority (fanStep3 d).turbo (fanStep3 d).quiet (fanStep3 d).speed := by
  have hturbo : n.turbo.toNat = (fanStep3 d).turbo := by
    rw [dec.turbo, toNat_ofNat_extract _ _ (by decide), enc.turbo]
  have hquiet : n.quietType.toNat = (fanStep3 d).quiet := by
    rw [dec.quietType, toNat_ofNat_extract _ _ (by decide), enc.quietType]
  have hspeed : n.fanSpeed.toNat = (fanStep3 d).speed := by
    rw [dec.fanSpeed, toNat_ofNat_extract _ _ (by decide), enc.fanSpeed]
  exact ⟨hturbo, hquiet, hspeed, by rw [dec.fanState, fanStateOf_toNat, hturbo, hquiet, hspeed]⟩

theorem roundTrip_xFan (h : d.mode.toNat ≤ 7) (hm : d.mode = modeCool ∨ d.mode = modeDry) : n.xFan = d.xFan := by
  rw [dec.xFan, roundTrip_mode enc dec h, if_pos hm, enc.xFan, xFanBit, if_pos hm, BitVec.ofNat_toNat,
    BitVec.setWidth_eq]

theorem roundTrip_xFanForHeat (h : d.mode.toNat ≤ 7) (hm : d.mode = modeHeat) : n.xFanForHeat = d.xFanForHeat := by
  have hcool : ¬ (d.mode = modeCool ∨ d.mode = modeDry) := by
    rw [hm]
    decide
  rw [dec.xFanForHeat, roundTrip_mode enc dec h, if_neg hcool, if_pos hm, enc.xFan, xFanBit, if_neg hcool, if_pos hm,
    BitVec.ofNat_toNat, BitVec.setWidth_eq]

theorem roundTrip_sleepCurveType (h : SnapshotLegal c d) :
    n.sleepCurveType.toNat = clearedIfOff d .sleepCurveType := by
  have hcode := h.clearedIfOff_sleep
  rw [dec.sleepCurveType, enc.siesta, enc.sleepIndex]
  by_cases h128 : clearedIfOff d .sleepCurveType = 128
  · simp [h128]
  · simp only [if_neg h128, zero_ne_one, if_false, BitVec.toNat_ofNat]
    omega

theorem roundTrip_minutesUntilOn : n.minutesUntilOn = d.minutesUntilOn := by
  rw [dec.minutesUntilOn, enc.minutesUntilOn, BitVec.ofNat_toNat, BitVec.setWidth_eq]

theorem roundTrip_regionalSwingPosition (h : SnapshotLegal c d) :
    n.regionalSwingPosition = d.regionalSwingPosition := by
  have hle := (inDomain_regionalSwingPosition c _).1 (h.others .regionalSwingPosition nofun nofun nofun)
  rw [DeviceState.get, toNat_setWidth_of_le (by decide)] at hle
  rw [dec.regionalSwingPosition, enc.swingSpill, enc.swingPosition]
  by_cases h256 : d.regionalSwingPosition = swingOverflow
  · simp [h256]
  · have hne : d.regionalSwingPosition.toNat ≠ 256 := fun he => h256 (BitVec.eq_of_toNat_eq he)
    apply BitVec.eq_of_toNat_eq
    simp only [if_neg h256, zero_ne_one, if_false, BitVec.toNat_ofNat]
    omega

theorem roundTrip_pass27 (h : SnapshotLegal c d) : n.pass27 = d.pass27 := by
  rw [dec.pass27, enc.pass27, h.pass27_masked]

end

/-- Settles O48: the received bytes are those of the command frame, which holds the snapshot position by position; DECODE
reads each position into the register it was packed from. -/
theorem decodeOfEncodeRestoresTheSnapshot : Obligations.DecodeOfEncodeRestoresTheSnapshot := by
  intro s t r latch hlegal hvalid ht hready hbytes hzero
  have htx : t.tx = commandFrame Config.machine s.ds latch := by
    rw [succeed_next.1 ((exec_encode_of_valid latch hvalid).symm.trans ht), State.finish_tx, State.withTx_tx]
  have enc : EncodedRegisters Config.machine s.ds r.rx :=
    (commandFrame_registers Config.machine s.ds latch).congr fun a h5 h38 => htx ▸ hbytes a (by omega) h38
  have dec := newSnapshot_registers r
  obtain ⟨hmode, hunits⟩ := hlegal.wire hvalid
  obtain ⟨hturbo, hquiet, hspeed, hstate⟩ := roundTrip_fan enc dec
  refine ⟨_, exec_decode_eq_decoded hready, roundTrip_isOn enc dec, roundTrip_mode enc dec hmode,
    roundTrip_tempUnits enc dec hunits, roundTrip_temp enc dec, hturbo, hquiet, hspeed, hstate,
    roundTrip_xFan enc dec hmode, roundTrip_xFanForHeat enc dec hmode, roundTrip_sleepCurveType enc dec hlegal,
    roundTrip_minutesUntilOn enc dec, roundTrip_regionalSwingPosition enc dec hlegal, fun g hg hheat => ?mapped,
    roundTrip_pass27 enc dec hlegal, ?pass41⟩
  case mapped =>
    have hg' := decodeSnapshot_mapped Config.machine r.rx r.ds hg
    rw [enc.mapped g hg hheat, Nat.mod_eq_of_lt (hlegal.clearedIfOff_lt hg)] at hg'
    exact hg'
  case pass41 =>
    exact dec.pass41.trans (hzero 41 (by decide) (by decide))

end Sys2Proof.Machine

/-! ### ENCODE and ENCRT -/

namespace Sys2Proof.Machine

/-! #### The header and the intent byte -/

/-- Outside bytes 5..39 a command frame holds its header and its intent byte only (R250). -/
theorem read_commandFrame_outside (c : Config) (d : DeviceState) (latch : BitVec 1) {a : Nat} (h : a < 5 ∨ 39 < a) :
    (commandFrame c d latch).read a =
      (packInit.write Wire.intentByte (intentByte c latch d.useRemoteTempSensor)).read a := by
  have hseal : a ≠ cmdFrameLen - 1 := by
    simp only [cmdFrameLen]
    omega
  rw [commandFrame, read_sealFrame, if_neg hseal, read_pack_outside c _ latch (by omega),
    normalise_useRemoteTempSensor]

/-- A one-bit flag shifted to bit k shows there, and nowhere else. -/
theorem getLsbD_flag_shiftLeft (b : BitVec 1) {k : Nat} (hk : k < 8) (i : Nat) :
    (b.setWidth 8 <<< k).getLsbD i = (decide (i = k) && decide (b = 1)) := by
  by_cases hi : i = k
  · subst hi
    obtain rfl | rfl : b = 0 ∨ b = 1 := by
      revert b
      decide
    · simp
    · simp [hk]
  · have hout : i < k ∨ 1 ≤ i - k := by omega
    simp only [BitVec.getLsbD_shiftLeft, BitVec.getLsbD_setWidth, hi, decide_false, Bool.false_and]
    obtain h | h := hout
    · simp [h]
    · simp [BitVec.getLsbD_of_ge b _ h]

/-- The intent byte, bit by bit (R254): INTENT_BASE leaves bits 1 and 6 to the flags. -/
theorem getLsbD_intentByte (c : Config) (latch remote : BitVec 1) (i : Nat) :
    (intentByte c latch remote).getLsbD i =
      if i = 1 then decide (latch = 1) else if i = 6 then decide (remote = 1) else c.params.intentBase.getLsbD i := by
  obtain ⟨h1, h6⟩ := c.intent_base
  rw [intentByte, BitVec.getLsbD_or, BitVec.getLsbD_or, getLsbD_flag_shiftLeft _ (by decide),
    getLsbD_flag_shiftLeft _ (by decide)]
  split_ifs with hi1 hi6
  · rw [hi1, h1]
    simp
  · rw [hi6, h6]
    simp
  · simp [hi1, hi6]

/-! #### What ENCODE and ENCRT answer -/

/-- With VALID set a whole frame is committed, and nothing else changes (R258). -/
theorem emitFrame_of_valid {s : State} (frame : Memory) (hv : s.ds.valid = 1) :
    ∃ t, emitFrame s frame = .next t ∧ t.tx = frame ∧ t.txlen.val = 40 ∧ t.result.toNat = 40
      ∧ t = { s with tx := t.tx, txlen := t.txlen, err := .ok, result := t.result } := by
  obtain ⟨h0, -⟩ | ⟨-, h⟩ := emitFrame_cases s frame
  · exact absurd (h0.symm.trans hv) (by decide)
  · exact ⟨_, h.trans (succeed_next.2 rfl), rfl, rfl, rfl, rfl⟩

/-- With VALID set ENCODE offers a frame that holds the snapshot, position by position. -/
theorem exec_encode_registers {s : State} (latch : BitVec 1) (hv : s.ds.valid = 1) :
    ∃ t, exec (.encode latch) s = .next t ∧ EncodedRegisters Config.machine s.ds t.tx := by
  obtain ⟨t, ht, htx, -⟩ := emitFrame_of_valid (commandFrame Config.machine s.ds latch) hv
  exact ⟨t, ht, htx ▸ commandFrame_registers _ _ _⟩

/-- With VALID clear no frame is left to send (R241, R262). -/
theorem emitFrame_of_invalid {s : State} (frame : Memory) (hv : s.ds.valid = 0) :
    emitFrame s frame = .next { s with txlen := 0, err := .invalidStateForEncode, result := 0 } := if_pos hv

/-- Settles O38: both commands end in `emitFrame`. -/
theorem encodeRefusesAnInvalidSnapshot : Obligations.EncodeRefusesAnInvalidSnapshot := fun _ _ hv =>
  ⟨emitFrame_of_invalid _ hv, emitFrame_of_invalid _ hv⟩

/-- Settles O39: outside its fields the frame is the header and the intent byte, and it is sealed. -/
theorem encodeEmitsAWellFormedCommandFrame : Obligations.EncodeEmitsAWellFormedCommandFrame := by
  intro s latch hv
  obtain ⟨t, ht, htx, hlen, hresult, hframe⟩ :=
    emitFrame_of_valid (commandFrame Config.machine s.ds latch) hv
  have hout : ∀ {a}, a < 5 ∨ 39 < a → t.tx.read a =
      (packInit.write Wire.intentByte (intentByte Config.machine latch s.ds.useRemoteTempSensor)).read a := fun h =>
    htx ▸ read_commandFrame_outside _ _ _ h
  have hhead : ∀ a, a < 4 → t.tx.read a = packInit.read a := fun a ha => by
    rw [hout (.inl (by omega)), Memory.read_write_other]
    simp only [Wire.intentByte]
    omega
  have hintent : t.tx.read 4 = intentByte Config.machine latch s.ds.useRemoteTempSensor :=
    (hout (.inl (by decide))).trans (Memory.read_write_same _ _ _)
  refine ⟨t, ht, ?h0, ?h1, ?h2, ?h3, ?latch, ?remote, fun k h1 h6 => ?base, htx ▸ wellFramed_commandFrame _ _ _,
    fun a ha => ?tail, hlen, hresult, hframe⟩
  case h0 => rw [hhead 0 (by decide), read_packInit]; rfl
  case h1 => rw [hhead 1 (by decide), read_packInit]; rfl
  case h2 => rw [hhead 2 (by decide), read_packInit]; rfl
  case h3 => rw [hhead 3 (by decide), read_packInit]; rfl
  case latch => rw [hintent, getLsbD_intentByte, if_pos rfl, decide_eq_true_iff]
  case remote => rw [hintent, getLsbD_intentByte, if_neg (by decide), if_pos rfl, decide_eq_true_iff]
  case base => rw [hintent, getLsbD_intentByte, if_neg h1, if_neg h6]
  case tail => rw [hout (.inr (by omega)), read_packInit_write_intent (by omega)]

/-! #### Power, mode and temperature -/

/-- The extraction of the upper half of a byte. -/
theorem extract_highNibble (f : Memory) (byte : Nat) : extract f [⟨byte, 7, 4⟩] = (f.read byte).toNat / 16 := by
  have := (f.read byte).isLt
  rw [extract_single, slice]
  omega

/-- R282's formula in Celsius. -/
theorem encodeTemp_celsius (t2 : Nat) :
    ((encodeTemp 0 t2).u : Int) = min (max ((t2 : Int) / 2 - 16) 0) 14 ∧ (encodeTemp 0 t2).lo = 0
      ∧ (encodeTemp 0 t2).h = t2 % 2 := by
  refine ⟨?_, rfl, rfl⟩
  simp only [encodeTemp, clamp, zero_ne_one, if_false]
  omega

/-- R282's formula in Fahrenheit. -/
theorem encodeTemp_fahrenheit (t2 : Nat) :
    ((encodeTemp 1 t2).u : Int) = min (max ((5 * (t2 : Int) - 599) / 18) 0) 14
      ∧ ((encodeTemp 1 t2).lo = 1 ↔ t2 % 2 = 0 ∧ t2 / 2 ∈ oddF) ∧ (encodeTemp 1 t2).h = 0 := by
  refine ⟨?_, ?_, rfl⟩
  · simp only [encodeTemp, clamp, if_true]
    omega
  · simp [encodeTemp]

/-- Settles O40: bytes 8, 9, 11 and 14 hold is_on, mode, the unit and the bits of encode_temp, and the clauses are
encode_temp's cases. -/
theorem encodeWritesPowerModeAndTemperature : Obligations.EncodeWritesPowerModeAndTemperature := by
  intro s latch hv hunits t2
  obtain ⟨t, ht, enc⟩ := exec_encode_registers latch hv
  have hon := (extract_topBit t.tx 8).symm.trans enc.isOn
  have hmode : (t.tx.read 8).toNat / 16 % 8 = s.ds.mode.toNat % 8 := (extract_single t.tx 8 6 4).symm.trans enc.mode
  have hunit := (extract_topBit t.tx 11).symm.trans enc.tempUnits
  have hupper := (extract_highNibble t.tx 9).symm.trans enc.tempUpper
  have hlower : (t.tx.read 11).toNat / 64 % 2 = _ := (extract_bit t.tx 11 6).symm.trans enc.tempLower
  have hhalf : (t.tx.read 14).toNat / 8 % 2 = _ := (extract_bit t.tx 14 3).symm.trans enc.tempHalf
  rw [Nat.mod_eq_of_lt (show s.ds.tempUnits.toNat < 2 by omega)] at hunit hupper hlower hhalf
  refine ⟨t, ht, hon, hmode, hunit, fun h1 => ?fahrenheit, fun h0 => ?celsius⟩
  case fahrenheit =>
    rw [h1] at hupper hlower hhalf
    obtain ⟨hu, hlo, hh⟩ := encodeTemp_fahrenheit s.ds.temp.toNat
    refine ⟨?_, ?_, hhalf.trans hh⟩
    · rw [← hu, ← hupper]
      rfl
    · rw [hlower, hlo]
      simp only [oddF, List.mem_cons, List.not_mem_nil, or_false, t2]
      omega
  case celsius =>
    rw [h0] at hupper hlower hhalf
    obtain ⟨hu, hlo, hh⟩ := encodeTemp_celsius s.ds.temp.toNat
    refine ⟨?_, hlower.trans hlo, ?_⟩
    · rw [← hu, ← hupper]
      rfl
    · rw [hh] at hhalf
      exact congrArg Nat.cast hhalf

/-! #### The fields, position by position -/

/-- Settles O41: byte 10 holds the gated X-Fan bit, and heat_assist is packed in heat mode only. -/
theorem encodeGatesXFanAndHeatAssistByMode : Obligations.EncodeGatesXFanAndHeatAssistByMode := by
  intro s latch hv p
  obtain ⟨t, ht, enc⟩ := exec_encode_registers latch hv
  have hbit : (t.tx.read 10).toNat / 8 % 2 = (xFanBit s.ds).toNat := (extract_bit t.tx 10 3).symm.trans enc.xFan
  have hassist : clearedIfOff s.ds .heatAssist = s.ds.heatAssist.toNat := by
    rw [clearedIfOff, if_neg fun h => absurd h.2 (by decide)]
    exact toNat_setWidth_of_le (by decide) _
  refine ⟨t, ht, fun hm => ?coolOrDry, fun hm => ?heat, fun h1 h2 h4 => ?other, fun hm => ?assist, enc.heatAssist⟩
  case coolOrDry => rw [hbit, xFanBit, if_pos hm]
  case heat => rw [hbit, xFanBit, if_neg (by simp [hm]), if_pos hm]
  case other =>
    rw [hbit, xFanBit, if_neg (not_or.2 ⟨h1, h2⟩), if_neg h4]
    rfl
  case assist => exact hassist ▸ enc.mapped .heatAssist (by decide) fun _ => hm

/-- Settles O42: the bits are those of the snapshot after steps 1, 2 and 3. -/
theorem encodeNormalisesTheFanInOrder : Obligations.EncodeNormalisesTheFanInOrder := by
  intro s latch hv
  obtain ⟨t, ht, enc⟩ := exec_encode_registers latch hv
  refine ⟨t, ht, ?turbo, (extract_single t.tx 20 3 2).symm.trans enc.quietType, ?speed⟩
  case turbo => rw [← enc.turbo, Wire.turbo, extract_bit, Nat.pow_zero, Nat.div_one]
  case speed =>
    rw [← enc.fanSpeed, Wire.fanSpeed, extract_single, slice, Nat.pow_zero, Nat.div_one]
    rfl

/-- Settles O43: byte 20 holds the SIESTA bit, the index is 0 under it, and the split field is a byte and three bits. -/
theorem encodeWritesSleepAndSplitField : Obligations.EncodeWritesSleepAndSplitField := by
  intro s latch hv p sleep
  obtain ⟨t, ht, enc⟩ := exec_encode_registers latch hv
  have hsiesta : (t.tx.read 20).toNat / 128 = if sleep = 128 then 1 else 0 :=
    (extract_topBit t.tx 20).symm.trans enc.siesta
  have hindex : extract t.tx p.sleepIndex = if sleep = 128 then 0 else sleep % 4 := enc.sleepIndex
  have hminutes := (extract_minutesUntilOn t.tx).symm.trans enc.minutesUntilOn
  have hlow := (t.tx.read 16).isLt
  refine ⟨t, ht, ?siesta, fun h => ?zero, fun h hhi => ?byte8, fun h hhi => ?byte20, by omega, by omega⟩
  case siesta =>
    rw [hsiesta]
    split_ifs with h <;> simp [h]
  case zero =>
    rw [if_pos h] at hindex
    cases hhi : p.sleepHi with
    | byte8 =>
      rw [extract_sleepIndex_byte8 hhi] at hindex
      omega
    | byte20 =>
      rw [extract_sleepIndex_byte20 hhi] at hindex
      omega
  case byte8 =>
    rw [if_neg h, extract_sleepIndex_byte8 hhi] at hindex
    omega
  case byte20 =>
    rw [if_neg h, extract_sleepIndex_byte20 hhi] at hindex
    omega

/-- Settles O44: the position byte and the spill bit are positions of the frame. -/
theorem encodeSpillsSwingPosition256 : Obligations.EncodeSpillsSwingPosition256 := by
  intro s latch hv p
  obtain ⟨t, ht, enc⟩ := exec_encode_registers latch hv
  have hpos := (extract_byte t.tx p.swingByte).symm.trans enc.swingPosition
  have hspill := extract_bit_eq_one_iff t.tx p.swingSpillByte p.swingSpillBit
  rw [show extract t.tx [⟨p.swingSpillByte, p.swingSpillBit, p.swingSpillBit⟩] = _ from enc.swingSpill] at hspill
  refine ⟨t, ht, fun h => ?sentinel, fun h => ?plain⟩
  case sentinel =>
    have h256 : s.ds.regionalSwingPosition = swingOverflow := BitVec.eq_of_toNat_eq h
    rw [if_pos h256] at hpos hspill
    exact ⟨BitVec.eq_of_toNat_eq hpos, hspill.1 rfl⟩
  case plain =>
    have h256 : s.ds.regionalSwingPosition ≠ swingOverflow := fun he => h (he ▸ rfl)
    rw [if_neg h256] at hpos hspill
    exact ⟨hpos, Bool.eq_false_iff.2 fun hset => absurd (hspill.2 hset) (by decide)⟩

/-- Settles O45: every other FIELD_MAP field and the masked bits of byte 27 are positions of the frame. -/
theorem encodePacksEveryMappedField : Obligations.EncodePacksEveryMappedField := by
  intro s latch hv p
  obtain ⟨t, ht, enc⟩ := exec_encode_registers latch hv
  exact ⟨t, ht, fun g hg hne => enc.mapped g hg fun he => absurd he hne, enc.pass27⟩

/-! #### The remote-temperature frame -/

section

variable (c : Config) (d : DeviceState)

/-- The bytes no segment of remote_temp_val names, but for the checksum (R261). -/
theorem read_remoteTempFrame_header {a : Nat} (h : a < 5) :
    (remoteTempFrame c d).read a = (packInit.write Wire.intentByte (c.params.intentBase ||| 0x40#8)).read a := by
  have hseal : a ≠ cmdFrameLen - 1 := by
    simp only [cmdFrameLen]
    omega
  rw [remoteTempFrame, read_sealFrame, if_neg hseal, read_insertBits_outside]
  intro sg hsg
  have := c.mapped_seg (g := .remoteTempVal) (by decide) hsg
  omega

/-- The frame holds the register's wire bits (R261). -/
theorem extract_remoteTempFrame :
    extract (remoteTempFrame c d) (c.fieldMap .remoteTempVal) = d.remoteTempVal.toNat % 2 ^ c.params.wRemote := by
  have hg : Field.remoteTempVal ∈ Field.mapped := by decide
  have hwidth : segsWidth (c.fieldMap .remoteTempVal) = c.params.wRemote := c.mapped_width hg
  rw [← hwidth, ← extract_insertBits (packInit.write Wire.intentByte (c.params.intentBase ||| 0x40#8)) _
    (c.mapped_hi hg) (c.mapped_nodup hg)]
  refine extract_congr_read fun sg hsg => ?_
  have := c.mapped_seg hg hsg
  rw [remoteTempFrame, read_sealFrame, if_neg]
  simp only [cmdFrameLen]
  omega

/-- Every other bit from byte 5 on but the checksum is 0 (R261). -/
theorem frameBit_remoteTempFrame_outside {cell : Nat} (h5 : 5 ≤ cell / 8) (h39 : cell / 8 ≠ 39)
    (hc : cell ∉ segsCells (c.fieldMap .remoteTempVal)) : frameBit (remoteTempFrame c d) cell = false := by
  rw [remoteTempFrame, frameBit_sealFrame _ _ _ h39,
    frameBit_insertBits_outside _ _ (c.mapped_hi (g := .remoteTempVal) (by decide)) _ _ hc, frameBit,
    read_packInit_write_intent h5]
  exact BitVec.getLsbD_zero

end

/-- Settles O47: the frame is its header, its intent byte and one field, sealed. -/
theorem encrtEmitsTheMinimalFrame : Obligations.EncrtEmitsTheMinimalFrame := by
  intro s hv p
  obtain ⟨t, ht, htx, hlen, hresult, hframe⟩ := emitFrame_of_valid (remoteTempFrame Config.machine s.ds) hv
  refine ⟨t, ht, ?len, ?type, ?intent, htx ▸ extract_remoteTempFrame _ _, fun cell h5 h39 hc => ?outside,
    htx ▸ wellFramed_remoteTempFrame _ _, hlen, hresult, hframe⟩
  case len =>
    rw [htx, read_remoteTempFrame_header _ _ (by decide), Memory.read_write_other _ _ _ (by decide), read_packInit]
    rfl
  case type =>
    rw [htx, read_remoteTempFrame_header _ _ (by decide), Memory.read_write_other _ _ _ (by decide), read_packInit]
    rfl
  case intent =>
    rw [htx, read_remoteTempFrame_header _ _ (by decide)]
    exact Memory.read_write_same _ _ _
  case outside =>
    rw [htx]
    exact frameBit_remoteTempFrame_outside _ _ h5 h39 hc

end Sys2Proof.Machine

/-! ### TDEC and TENC -/

namespace Sys2Proof.Machine

/-- The value TDEC answers with is decode_temp itself: it fits RESULT (R284). -/
theorem toNat_ofNat_decodeTemp (units lo h : BitVec 1) (upper : BitVec 4) :
    (BitVec.ofNat 16 (decodeTemp units.toNat upper.toNat lo.toNat h.toNat)).toNat =
      decodeTemp units.toNat upper.toNat lo.toNat h.toNat := by
  have := decodeTemp_lt units.toNat upper.toNat lo.toNat h.isLt
  rw [BitVec.toNat_ofNat]
  omega

/-- TDEC succeeds from every state, with decode_temp of its operands as RESULT (R284). -/
theorem exec_tdec (s : State) (units lo h : BitVec 1) (upper : BitVec 4) :
    exec (.tdec units upper lo h) s =
      succeed s (BitVec.ofNat 16 (decodeTemp units.toNat upper.toNat lo.toNat h.toNat)) := rfl

/-- TENC succeeds from every state, with the packed bits of encode_temp as RESULT (R286). -/
theorem exec_tenc (s : State) (units : BitVec 1) (t2 : Byte) :
    exec (.tenc units t2) s = succeed s (BitVec.ofNat 16 (encodeTemp units.toNat t2.toNat).pack) := rfl

/-- The three parts of a packed temperature lie apart, so their union is their sum. -/
theorem TempBits.pack_eq_add {b : TempBits} (hu : b.u < 2 ^ 4) (hlo : b.lo < 2 ^ 1) :
    b.pack = b.u + 16 * b.lo + 32 * b.h := by
  have hlow : b.u ||| b.lo <<< 4 = b.lo <<< 4 + b.u := by
    rw [Nat.or_comm, Nat.shiftLeft_add_eq_or_of_lt hu]
  have hlt : b.lo <<< 4 + b.u < 2 ^ 5 := by
    rw [Nat.shiftLeft_eq]
    omega
  rw [TempBits.pack, hlow, Nat.or_comm, ← Nat.shiftLeft_add_eq_or_of_lt hlt, Nat.shiftLeft_eq, Nat.shiftLeft_eq]
  omega

/-- RESULT of TENC holds u in bits 3:0, lo in bit 4, h in bit 5 and 0 above (R286). -/
theorem toNat_ofNat_pack_encodeTemp (units t2 : Nat) :
    let r := (BitVec.ofNat 16 (encodeTemp units t2).pack).toNat
    r % 16 = (encodeTemp units t2).u ∧ r / 16 % 2 = (encodeTemp units t2).lo ∧ r / 32 = (encodeTemp units t2).h := by
  obtain ⟨hu, hlo, hh⟩ := encodeTemp_lt units t2
  simp only [BitVec.toNat_ofNat, TempBits.pack_eq_add hu hlo]
  omega

/-- The operands TDEC reads from TENC's RESULT are the bits of encode_temp (R284, R286). -/
theorem tdecOperands_of_pack_encodeTemp (units t2 : Nat) :
    let r := BitVec.ofNat 16 (encodeTemp units t2).pack
    (r.setWidth 4).toNat = (encodeTemp units t2).u ∧ ((r >>> 4).setWidth 1).toNat = (encodeTemp units t2).lo
      ∧ ((r >>> 5).setWidth 1).toNat = (encodeTemp units t2).h := by
  intro r
  obtain ⟨hupper, hlower, hhalf⟩ := toNat_ofNat_pack_encodeTemp units t2
  have hh := (encodeTemp_lt units t2).2.2
  simp only [BitVec.toNat_setWidth, BitVec.toNat_ushiftRight, Nat.shiftRight_eq_div_pow, r]
  exact ⟨hupper, hlower, by omega⟩

/-- The integer quotient of R282 is the floor of (F - 32)·5/9 - 15.5 with F = t2/2. -/
theorem floor_fahrenheit_index (t2 : Nat) :
    ⌊((t2 : ℚ) / 2 - 32) * 5 / 9 - 31 / 2⌋ = (5 * (t2 : Int) - 599) / 18 := by
  have hquot : ((t2 : ℚ) / 2 - 32) * 5 / 9 - 31 / 2 = ((5 * (t2 : Int) - 599 : Int) : ℚ) / ((18 : Nat) : ℚ) := by
    push_cast
    ring
  rw [hquot, Rat.floor_intCast_div_natCast]
  rfl

/-- Settles O49: RESULT is decode_temp of the operands, and the clauses are decode_temp's cases. -/
theorem tdecEvaluatesDecodeTemp : Obligations.TdecEvaluatesDecodeTemp := by
  intro s units lo h upper
  have hresult := toNat_ofNat_decodeTemp units lo h upper
  refine ⟨_, exec_tdec s units lo h upper, fun h0 => ?celsius, fun h1 hu => ?zero, fun h1 hu => ?fahrenheit, rfl⟩
  case celsius =>
    subst h0
    exact hresult.trans (decodeTemp_celsius _ _ _)
  case zero =>
    subst h1 hu
    exact hresult.trans (decodeTemp_fahrenheit_zero _ _)
  case fahrenheit =>
    subst h1
    exact hresult.trans (decodeTemp_fahrenheit (fun h => hu (BitVec.eq_of_toNat_eq h)) _ _)

/-- Settles O50: RESULT is the packed bits of encode_temp, and the clauses are encode_temp's cases. -/
theorem tencEvaluatesEncodeTemp : Obligations.TencEvaluatesEncodeTemp := by
  intro s units t2
  obtain ⟨hupper, hlower, hhalf⟩ := toNat_ofNat_pack_encodeTemp units.toNat t2.toNat
  refine ⟨_, exec_tenc s units t2, fun h1 => ?fahrenheit, fun h0 => ?celsius, rfl⟩
  case fahrenheit =>
    subst h1
    obtain ⟨hu, hlo, hh⟩ := encodeTemp_fahrenheit t2.toNat
    have hindex := (congrArg Nat.cast hupper).trans hu
    exact ⟨hindex, floor_fahrenheit_index t2.toNat ▸ hindex, hlower ▸ hlo, hhalf.trans hh⟩
  case celsius =>
    subst h0
    obtain ⟨hu, hlo, hh⟩ := encodeTemp_celsius t2.toNat
    exact ⟨(congrArg Nat.cast hupper).trans hu, hlower.trans hlo, hhalf.trans hh⟩

/-- Settles O51: the operands are the bits of encode_temp, which decode_temp restores. -/
theorem tdecOfTencRestoresTheTemperature : Obligations.TdecOfTencRestoresTheTemperature := by
  intro s units t2 h
  obtain ⟨hupper, hlower, hhalf⟩ := tdecOperands_of_pack_encodeTemp units.toNat t2.toNat
  refine ⟨_, _, exec_tenc s units t2, exec_tdec _ _ _ _ _, ?_⟩
  rw [State.finish_result, State.finish_result, toNat_ofNat_decodeTemp, hupper, hlower, hhalf, decodeTemp_encodeTemp h]

end Sys2Proof.Machine

/-! ### What errors change, and the writers of the WARN bits -/

namespace Sys2Proof.Machine

section

variable {i : Instr} {s u : State} {e : ErrCode}

/-- What a command that ends in an error does before ERR and RESULT are written (R302): VALIDATE clears RXOK, a refused
ENCODE or ENCRT withdraws the frame, and every other command does nothing. -/
theorem Effect.of_error (h : Effect i s u e) (he : e ≠ .ok) :
    (i = .validate ∧ u = s.withRxok false) ∨ ((i = .encrt ∨ ∃ latch, i = .encode latch) ∧ u = s.withTxlen 0)
      ∨ (i ≠ .validate ∧ ¬ (i = .encrt ∨ ∃ latch, i = .encode latch) ∧ u = s) := by
  cases h with
  | rejects => exact .inl ⟨rfl, rfl⟩
  | refusesEncode latch => exact .inr (.inl ⟨.inr ⟨latch, rfl⟩, rfl⟩)
  | refusesEncrt => exact .inr (.inl ⟨.inl rfl, rfl⟩)
  | fail hv hl hr => exact .inr (.inr ⟨hv, not_or.2 ⟨hr, not_exists.2 hl⟩, rfl⟩)
  | _ => exact absurd rfl he

/-- Only SRST and a DECODE that passes its preconditions write the WARN bits (R303). -/
theorem Effect.keeps_warnings (h : Effect i s u e) (hrst : i ≠ .srst) (hdec : ¬ (i = .decode ∧ DecodeReady s)) :
    u.warnUnrec = s.warnUnrec ∧ u.warnQuiet3 = s.warnQuiet3 := by
  cases h with
  | decode unrec quiet3 hn => exact absurd ⟨rfl, decodeReady_of_decodeError hn⟩ hdec
  | srst => exact absurd rfl hrst
  | _ => simp

end

/-- Settles O53: each way to end in an error makes the listed effect of its command and no other change. -/
theorem errorsChangeOnlyTheirListedEffects : Obligations.ErrorsChangeOnlyTheirListedEffects := by
  intro i s t ht herr
  refine ⟨?_, fun j => everyCommandAndStepCompletes.1 j t⟩
  obtain ⟨u, e, v, rfl, hv, he⟩ := exec_cases ht
  obtain rfl := hv herr
  obtain ⟨rfl, rfl⟩ | ⟨hi, rfl⟩ | ⟨hval, henc, rfl⟩ := he.of_error herr
  · simp [State.finish, State.withRxok]
  · have hval : i ≠ .validate := by rintro rfl; simp at hi
    simp [State.finish, State.withTxlen, hi, hval]
  · simp [State.finish, hval, henc]

/-- Settles O54: the effects of every other command keep the WARN bits, and SRST ends in the reset state, where both
are clear. -/
theorem warnBitsComeFromTheLastDecode : Obligations.WarnBitsComeFromTheLastDecode := by
  intro i s t ht
  refine ⟨fun hrst hdec => ?_, ?_⟩
  · obtain ⟨u, e, v, rfl, -, he⟩ := exec_cases ht
    exact he.keeps_warnings hrst hdec
  · rintro rfl
    rw [succeed_next.1 ht]
    exact ⟨rfl, rfl⟩

end Sys2Proof.Machine

/-! ### The reset state -/

namespace Sys2Proof.Machine

/-- SRST restores every register and keeps the words still to come and their index (R186), so it leaves the reset state
as it is. -/
theorem State.softReset_reset : State.reset.softReset = State.reset := rfl

/-- Settles O7: every byte of an empty buffer is 0x00, and each register reads as R320's value. -/
theorem resetStateIsAsTabled : Obligations.ResetStateIsAsTabled :=
  ⟨Memory.read_zero, rfl, rfl, Memory.read_zero, rfl, toNat_get_reset, status_reset, rfl⟩

/-- Settles O9: soft reset ends in the invariant from every state, and the reset state is a soft reset. -/
theorem resetMeetsTheInvariant : Obligations.ResetMeetsTheInvariant := by
  have h : State.reset.softReset.Inv := State.Inv.softReset State.reset
  rwa [State.softReset_reset] at h

end Sys2Proof.Machine
